-- ==== Sys2Proof/Word.lean ====
section
/-! DEFINITION. The word types of the block (00_scope.md R8, R9). -/

namespace Sys2Proof

/-- A byte: a controller register, a staging byte, a function code (R8, R23). -/
abbrev Byte := BitVec 8

/-- 16 bits: the length parameter LEN, the quick-writes window, a CRC input item (R8). -/
abbrev Half := BitVec 16

/-- 32 bits: a CPU address, a staging-relative address, a transfer length, the CRC shift register (R8). -/
abbrev Word := BitVec 32

/-- 128 bits: an operation descriptor OPD (30_encoding.md R95). -/
abbrev Descriptor := BitVec 128

end Sys2Proof
end

