-- ==== Sys2Proof/Config.lean ====
section
/-! DEFINITION. The parameters of the block (00_scope.md R6, R7; 92_eei_decisions.md, "Parameters left OPEN"), as plain
data, and the instance that the state after reset carries. -/

namespace Sys2Proof

/-- The five numeric fields of a configuration set (45_crc16.md R311). -/
inductive CfgField where
  | mode | rdFast | rdSlow | wrFast | wrSlow
  deriving DecidableEq, Repr

/-- The operations that an expression over 32-bit words may use; `ult` and `eq` give 1 or 0. -/
inductive ExprOp where
  | add | sub | and | or | xor | shl | shr | ult | eq
  deriving DecidableEq, Repr

/-- A value computed from the five fields: what `P_CFG_CRC_SER` may put into an item (45_crc16.md R312), log 25. -/
inductive SerExpr where
  | field (f : CfgField)
  | lit (v : Word)
  | bin (op : ExprOp) (x y : SerExpr)
  /-- `t` where `c` is not 0, else `e`. -/
  | cond (c t e : SerExpr)
  deriving DecidableEq, Repr

/-- One entry of `P_CFG_CRC_SER` (45_crc16.md R312): the CRC input items it stands for. -/
inductive SerEntry where
  /-- FOLDWORD of a value: one byte item, one 16-bit item or two, by its size. -/
  | foldWord (v : SerExpr)
  /-- The low byte of `v` as a byte item, where `present` is not 0. -/
  | byteItem (present v : SerExpr)
  /-- The low half of `v` as a 16-bit item, where `present` is not 0. -/
  | halfItem (present v : SerExpr)
  deriving DecidableEq, Repr

/-- A value read from a configuration set: what `P_CFG_LAYOUT` may give for a field (45_crc16.md R311), log 25. -/
inductive LayoutExpr where
  /-- The address of the set. -/
  | base
  | lit (v : Word)
  /-- The byte of the caller's memory at an address that may itself be read from memory. -/
  | byteAt (addr : LayoutExpr)
  | bin (op : ExprOp) (x y : LayoutExpr)
  /-- `t` where `c` is not 0, else `e`. -/
  | cond (c t e : LayoutExpr)
  deriving DecidableEq, Repr

/-- `P_CFG_LAYOUT` (45_crc16.md R311): how each field and the stored checksum are read. -/
structure CfgLayout where
  mode : LayoutExpr
  rdFast : LayoutExpr
  rdSlow : LayoutExpr
  wrFast : LayoutExpr
  wrSlow : LayoutExpr
  stored : LayoutExpr
  deriving DecidableEq, Repr

/-- `P_ROUTINE_CODE(k)`, `P_ROUTINE_OFF(k)` and `P_ROUTINE_ENTRY(k)` of one access routine (44_quick_writes_wait.md R285). -/
structure RoutineImage where
  code : List Byte
  off : Nat
  entry : Nat
  deriving DecidableEq, Repr

/-- Every parameter of 00_scope.md R6 and R7, and the code and place parameters of 10_state.md R24, R25, R29, R31 and
30_encoding.md R92, R93. No step changes one (10_state.md R48). -/
structure Params where
  /-- `P_ASYNC` -/
  async : Bool
  /-- `P_QUICK` -/
  quick : Bool
  /-- `P_CANCEL` -/
  cancel : Bool
  /-- `P_TIMEOUT` -/
  timeout : Option Word
  /-- `P_DET` -/
  det : Bool
  /-- `P_DEM` -/
  dem : Bool
  /-- `P_LOAD_ON_START` -/
  loadOnStart : Bool
  /-- `P_CALLBACK`: is a progress callback present -/
  callback : Bool
  /-- `P_EEE_SIZE` -/
  eeeSize : Nat
  /-- `P_FLEXRAM_BASE` -/
  flexramBase : Word
  /-- `P_CTRL_BASE` -/
  ctrlBase : Word
  /-- `P_CTRL_SIZE` -/
  ctrlSize : Nat
  /-- `P_SHADOW_BASE` -/
  shadowBase : Word
  /-- `P_SHADOW_SIZE` -/
  shadowSize : Nat
  /-- `P_ERASED_VALUE` -/
  erasedValue : Byte
  /-- `P_UNLOAD_PATTERN` -/
  unloadPattern : Word
  /-- `P_ENTRY_TAG` -/
  entryTag : Word
  eraseRoutine : RoutineImage
  writeRoutine : RoutineImage
  cfgLayout : CfgLayout
  /-- `P_QW_MIN`, `P_QW_MAX`, `P_QW_STEP`: the quick-writes window bounds -/
  qwMin : Nat
  qwMax : Nat
  qwStep : Nat
  /-- `P_CFG_CRC_SER` -/
  cfgSer : List SerEntry
  /-- `P_CRC_INIT` -/
  crcInit : Half
  /-- `P_CMD_SETFR` -/
  cmdSetfr : Byte
  /-- `P_FC_EEE` -/
  fcEee : Byte
  /-- `P_FC_QUICK` -/
  fcQuick : Byte
  /-- `P_FC_QUERY` -/
  fcQuery : Byte
  /-- `P_FC_COMPLETE` -/
  fcComplete : Byte
  /-- `P_BO_NONE` -/
  boNone : Byte
  /-- `P_BO_MAINT` -/
  boMaint : Byte
  /-- `P_BO_QUICK` -/
  boQuick : Byte
  /-- `P_BO_NORMAL` -/
  boNormal : Byte
  /-- `P_BIT_CC` -/
  bitCc : Fin 8
  /-- `P_BIT_COLL` -/
  bitColl : Fin 8
  /-- `P_BIT_ACCERR` -/
  bitAccerr : Fin 8
  /-- `P_BIT_PVIOL` -/
  bitPviol : Fin 8
  /-- `P_BIT_CSTAT` -/
  bitCstat : Fin 8
  /-- `P_BIT_READY` -/
  bitReady : Fin 8
  /-- `P_OFF_STATUS` -/
  offStatus : Nat
  /-- `P_OFF_CONFIG` -/
  offConfig : Nat
  /-- `P_OFF_CMDPARAM(k)` -/
  offCmdparam : Vector Nat 12
  /-- `P_SLOT_CMD` -/
  slotCmd : Fin 12
  /-- `P_SLOT_FC` -/
  slotFc : Fin 12
  /-- `P_SLOT_LEN`, the byte LEN[15:8] -/
  slotLenHi : Fin 12
  /-- `P_SLOT_LEN`, the byte LEN[7:0] -/
  slotLenLo : Fin 12
  /-- `P_SLOT_BO` -/
  slotBo : Fin 12
  /-- `P_SLOT_PEND`: as many places as RES_PEND has bytes (`P_PEND_BYTES`) -/
  slotPend : List (Fin 12)
  /-- The configuration's module and instance numbers of a development-error event (60_exceptions.md R411). -/
  detModule : Nat
  detInstance : Nat
  deriving DecidableEq, Repr

/-- `P_PEND_BYTES` (00_scope.md R7). -/
def Params.pendBytes (p : Params) : Nat := p.slotPend.length

/-- What 00_scope.md to 45_crc16.md ask of the parameters: pairwise different function codes (30_encoding.md R92),
brown-out codes that can be told apart (43_init_brownout.md R236), pairwise different bit places of STATUS (10_state.md
R25), the written slots apart and RES_BO apart from RES_PEND (R31), routines that fit (44_quick_writes_wait.md R285), a
staging buffer inside the 32-bit addresses (20_memory.md R60), window bounds that leave `len mod w` and `w mod P_QW_STEP` a
meaning (44_quick_writes_wait.md R270). -/
def Params.wf (p : Params) : Bool :=
  decide ([p.fcEee, p.fcQuick, p.fcQuery, p.fcComplete].Nodup)
  && decide ([p.boNone, p.boMaint, p.boQuick, p.boNormal].Nodup)
  && decide ([p.bitCc, p.bitColl, p.bitAccerr, p.bitPviol, p.bitCstat].Nodup)
  && decide ([p.slotCmd, p.slotFc, p.slotLenHi, p.slotLenLo].Nodup)
  && decide ((p.slotBo :: p.slotPend).Nodup)
  && decide (0 < p.slotPend.length)
  && decide (p.eraseRoutine.off + p.eraseRoutine.code.length ≤ p.shadowSize)
  && decide (p.writeRoutine.off + p.writeRoutine.code.length ≤ p.shadowSize)
  && decide (p.flexramBase.toNat + p.eeeSize ≤ 2 ^ 32)
  && decide (p.ctrlBase.toNat + p.ctrlSize ≤ 2 ^ 32)
  && decide (p.shadowBase.toNat + p.shadowSize ≤ 2 ^ 32)
  && decide (0 < p.qwMin ∧ 0 < p.qwStep)

/-- The reference serialisation of 45_crc16.md R312. PRESUMED, log 2. -/
def Config.referenceSer : List SerEntry :=
  [.foldWord (.field .mode), .foldWord (.field .rdFast), .foldWord (.field .rdSlow), .foldWord (.field .wrFast),
    .foldWord (.field .wrSlow)]

/-- The `n` bytes from offset `off` of the set as one value, the least significant first. -/
def Config.littleEndian : Nat → Word → LayoutExpr
  | 0, _ => .lit 0#32
  | n + 1, off =>
    .bin .or (.byteAt (.bin .add .base (.lit off))) (.bin .shl (Config.littleEndian n (off + 1#32)) (.lit 8#32))

/-- A layout of six consecutive little-endian fields. The spec leaves the layout OPEN. DESIGN CHOICE, log 25. The mode's word is
taken as it stands, also where it is neither SLOW's 0 nor FAST's 1, on which the spec is silent. DESIGN CHOICE, log 44. -/
def Config.packedLayout : CfgLayout :=
  { mode := Config.littleEndian 4 0#32, rdFast := Config.littleEndian 4 4#32, rdSlow := Config.littleEndian 4 8#32
    wrFast := Config.littleEndian 4 12#32, wrSlow := Config.littleEndian 4 16#32, stored := Config.littleEndian 2 20#32 }

/-- The instance the state after reset carries: the reference values of the spec (PRESUMED, log 2) and, where it has
none, those of the test instance of 95_test_vectors.md or the model's own (DESIGN CHOICE, log 3). -/
def Params.reference : Params :=
  { async := false, quick := true, cancel := true, timeout := some 3#32, det := true, dem := true
    loadOnStart := false, callback := false
    eeeSize := 4096, flexramBase := 0x14000000#32, ctrlBase := 0x40020000#32, ctrlSize := 0x10
    shadowBase := 0x2000F000#32, shadowSize := 0x100
    erasedValue := 0xFF#8, unloadPattern := 0xA5A5A5A5#32, entryTag := 1#32
    eraseRoutine := { code := [], off := 0, entry := 0 }, writeRoutine := { code := [], off := 0, entry := 0 }
    cfgLayout := Config.packedLayout, qwMin := 16, qwMax := 512, qwStep := 4
    cfgSer := Config.referenceSer, crcInit := 0#16
    cmdSetfr := 0x81#8, fcEee := 0x00#8, fcQuick := 0xAA#8, fcQuery := 0x77#8, fcComplete := 0x55#8
    boNone := 0x00#8, boMaint := 0x01#8, boQuick := 0x02#8, boNormal := 0x04#8
    bitCc := 7, bitColl := 6, bitAccerr := 5, bitPviol := 4, bitCstat := 0, bitReady := 0
    offStatus := 0x00, offConfig := 0x01
    offCmdparam := #v[0x07, 0x06, 0x05, 0x04, 0x0B, 0x0A, 0x09, 0x08, 0x0F, 0x0E, 0x0D, 0x0C]
    slotCmd := 0, slotFc := 1, slotLenHi := 4, slotLenLo := 5, slotBo := 5, slotPend := [6, 7]
    detModule := 0, detInstance := 0 }

end Sys2Proof
end

