-- ==== Sys2Proof/Syntax.lean ====
section
/-! DEFINITION. The instructions of the block, one constructor per row of spec/opcode_table.json, and the three encoded
forms in which they reach it (30_encoding.md R90). -/

namespace Sys2Proof

/-- One constructor per row of the opcode table: the twenty OPD operations (30_encoding.md R95), the four CMDW commands
(R91, R92) and the two EEEW page writes (R94). -/
inductive Instr where
  | init (cfg : Word)
  | writeS (dst src len : Word)
  | writeA (dst src len : Word)
  | eraseS (dst len : Word)
  | eraseA (dst len : Word)
  | poll
  | read (src dst len : Word)
  | compare (src buf len : Word)
  | quickCheck (dst src len : Word) (w : Half)
  | quickEnter (w : Half)
  | quickExit
  | waitReady
  | routineLoad (kind : Byte)
  | routineUnload
  | dispatch (fcode : Byte) (len : Half)
  | crcReset
  | crcFold8 (b : Byte)
  | crcFold16 (h : Half)
  | crcFinalize
  | crcCheckCfg (cfg : Word)
  | setEee
  | setQuick (w : Half)
  | query
  | complete
  | page1 (a : Word) (b : Byte)
  | page4 (a : Word) (b0 b1 b2 b3 : Byte)
  deriving DecidableEq, Repr

/-- What is presented to the block, before it is decoded. The three forms arrive at three different places (R90): a
caller hands over a descriptor, the command-parameter registers take a command word, the staging window takes a store. -/
inductive IssueWord where
  /-- Format OPD (R95). -/
  | opd (w : Descriptor)
  /-- Format CMDW (R91): CMD 31:24, FC 23:16, LEN 15:0. -/
  | cmdw (w : Word)
  /-- Format EEEW (R94): one CPU store at staging address `a`; SIZE is the number of bytes, given in address order. -/
  | eeew (a : Word) (data : List Byte)
  deriving DecidableEq, Repr

end Sys2Proof
end

