-- ==== Sys2Proof/Decode.lean ====
section
/-! DEFINITION. Decoding and encoding of the three formats of 30_encoding.md. Decoding is total and refuses by name. -/

namespace Sys2Proof

/-- Why a presented form is no instruction (30_encoding.md R98). -/
inductive DecodeError where
  /-- An OP that is not in the opcode map. -/
  | opReserved (op : Byte)
  /-- A non-zero reserved or unused operand bit. -/
  | operandReserved (op : Byte)
  /-- A command word with an unknown command or function code. -/
  | cmdReserved
  /-- A store to the staging window of a size other than 1 or 4. -/
  | storeSize
  deriving DecidableEq, Repr

/-- The fields of format OPD (R95). -/
def opdOp (w : Descriptor) : Byte := w.extractLsb' 0 8
def opdA (w : Descriptor) : Word := w.extractLsb' 8 32
def opdB (w : Descriptor) : Word := w.extractLsb' 40 32
def opdC (w : Descriptor) : Word := w.extractLsb' 72 32
def opdW (w : Descriptor) : Half := w.extractLsb' 104 16
def opdTop (w : Descriptor) : Byte := w.extractLsb' 120 8

/-- The descriptor with these fields and bits 127:120 zero (R95). -/
def opdWord (op : Byte) (a b c : Word) (w : Half) : Descriptor :=
  (0#8 ++ w ++ c ++ b ++ a ++ op).cast (by decide)

/-- The operation `i`, or the refusal of a descriptor whose unused bits are not all zero (R96, R98). -/
def whenZero (op : Byte) (unused : Bool) (i : Instr) : Except DecodeError Instr :=
  if unused then .ok i else .error (.operandReserved op)

/-- Format OPD: the OP field, then the operands the table of R95 names (R100). Unused operand fields, the bits of A
above a narrower operand and bits 127:120 must be 0 (R96). -/
def decodeOpd (w : Descriptor) : Except DecodeError Instr :=
  let op := opdOp w
  let a := opdA w
  let b := opdB w
  let c := opdC w
  let h := opdW w
  let z := opdTop w == 0#8
  match op.toNat with
  | 0x01 => whenZero op (z && b == 0#32 && c == 0#32 && h == 0#16) (.init a)
  | 0x02 => whenZero op (z && h == 0#16) (.writeS a b c)
  | 0x03 => whenZero op (z && h == 0#16) (.writeA a b c)
  | 0x04 => whenZero op (z && b == 0#32 && h == 0#16) (.eraseS a c)
  | 0x05 => whenZero op (z && b == 0#32 && h == 0#16) (.eraseA a c)
  | 0x06 => whenZero op (z && a == 0#32 && b == 0#32 && c == 0#32 && h == 0#16) .poll
  | 0x07 => whenZero op (z && h == 0#16) (.read a b c)
  | 0x08 => whenZero op (z && h == 0#16) (.compare a b c)
  | 0x09 => whenZero op z (.quickCheck a b c h)
  | 0x0A => whenZero op (z && a == 0#32 && b == 0#32 && c == 0#32) (.quickEnter h)
  | 0x0B => whenZero op (z && a == 0#32 && b == 0#32 && c == 0#32 && h == 0#16) .quickExit
  | 0x0C => whenZero op (z && a == 0#32 && b == 0#32 && c == 0#32 && h == 0#16) .waitReady
  | 0x0D => whenZero op (z && a.extractLsb' 8 24 == 0#24 && b == 0#32 && c == 0#32 && h == 0#16) (.routineLoad (a.extractLsb' 0 8))
  | 0x0E => whenZero op (z && a == 0#32 && b == 0#32 && c == 0#32 && h == 0#16) .routineUnload
  | 0x0F => whenZero op (z && a.extractLsb' 8 24 == 0#24 && b == 0#32 && c == 0#32) (.dispatch (a.extractLsb' 0 8) h)
  | 0x10 => whenZero op (z && a == 0#32 && b == 0#32 && c == 0#32 && h == 0#16) .crcReset
  | 0x11 => whenZero op (z && a.extractLsb' 8 24 == 0#24 && b == 0#32 && c == 0#32 && h == 0#16) (.crcFold8 (a.extractLsb' 0 8))
  | 0x12 => whenZero op (z && a.extractLsb' 16 16 == 0#16 && b == 0#32 && c == 0#32 && h == 0#16) (.crcFold16 (a.extractLsb' 0 16))
  | 0x13 => whenZero op (z && a == 0#32 && b == 0#32 && c == 0#32 && h == 0#16) .crcFinalize
  | 0x14 => whenZero op (z && b == 0#32 && c == 0#32 && h == 0#16) (.crcCheckCfg a)
  | _ => .error (.opReserved op)

/-- The four Set FlexRAM Function commands (40_dispatch_polling.md R121). -/
inductive Command where
  | setEee | setQuick | query | complete
  deriving DecidableEq, Repr

/-- The function code of a command (30_encoding.md R92). -/
def Command.code (p : Params) : Command → Byte
  | .setEee => p.fcEee
  | .setQuick => p.fcQuick
  | .query => p.fcQuery
  | .complete => p.fcComplete

/-- The controller selects the command by equality of FC with the four parameters (R103). -/
def commandOf (p : Params) (fc : Byte) : Option Command :=
  if fc = p.fcEee then some .setEee
  else if fc = p.fcQuick then some .setQuick
  else if fc = p.fcQuery then some .query
  else if fc = p.fcComplete then some .complete
  else none

/-- Format CMDW (R91, R103). LEN is a don't-care but for SET_QUICK (40_dispatch_polling.md R129). -/
def decodeCmdw (p : Params) (w : Word) : Except DecodeError Instr :=
  if w.extractLsb' 24 8 = p.cmdSetfr then
    match commandOf p (w.extractLsb' 16 8) with
    | some .setEee => .ok .setEee
    | some .setQuick => .ok (.setQuick (w.extractLsb' 0 16))
    | some .query => .ok .query
    | some .complete => .ok .complete
    | none => .error .cmdReserved
  else .error .cmdReserved

/-- Format EEEW: the store's size alone selects the page write (R94, R103). Its alignment is one of the ordered checks
of the page issue (40_dispatch_polling.md R134), log 16. -/
def decodeEeew (a : Word) : List Byte → Except DecodeError Instr
  | [b] => .ok (.page1 a b)
  | [b0, b1, b2, b3] => .ok (.page4 a b0 b1 b2 b3)
  | _ => .error .storeSize

/-- Decoding of whatever is presented to the block. -/
def decode (p : Params) : IssueWord → Except DecodeError Instr
  | .opd w => decodeOpd w
  | .cmdw w => decodeCmdw p w
  | .eeew a data => decodeEeew a data

/-- The command word of R91. -/
def cmdWord (p : Params) (c : Command) (len : Half) : Word :=
  (p.cmdSetfr ++ c.code p ++ len).cast (by decide)

/-- The encoding of an instruction, from the table of R95, from R91 and from R94. A command without a length is encoded
with LEN zero, which the controller ignores (40_dispatch_polling.md R129). -/
def encode (p : Params) : Instr → IssueWord
  | .init cfg => .opd (opdWord 0x01#8 cfg 0#32 0#32 0#16)
  | .writeS dst src len => .opd (opdWord 0x02#8 dst src len 0#16)
  | .writeA dst src len => .opd (opdWord 0x03#8 dst src len 0#16)
  | .eraseS dst len => .opd (opdWord 0x04#8 dst 0#32 len 0#16)
  | .eraseA dst len => .opd (opdWord 0x05#8 dst 0#32 len 0#16)
  | .poll => .opd (opdWord 0x06#8 0#32 0#32 0#32 0#16)
  | .read src dst len => .opd (opdWord 0x07#8 src dst len 0#16)
  | .compare src buf len => .opd (opdWord 0x08#8 src buf len 0#16)
  | .quickCheck dst src len w => .opd (opdWord 0x09#8 dst src len w)
  | .quickEnter w => .opd (opdWord 0x0A#8 0#32 0#32 0#32 w)
  | .quickExit => .opd (opdWord 0x0B#8 0#32 0#32 0#32 0#16)
  | .waitReady => .opd (opdWord 0x0C#8 0#32 0#32 0#32 0#16)
  | .routineLoad kind => .opd (opdWord 0x0D#8 (kind.setWidth 32) 0#32 0#32 0#16)
  | .routineUnload => .opd (opdWord 0x0E#8 0#32 0#32 0#32 0#16)
  | .dispatch fcode len => .opd (opdWord 0x0F#8 (fcode.setWidth 32) 0#32 0#32 len)
  | .crcReset => .opd (opdWord 0x10#8 0#32 0#32 0#32 0#16)
  | .crcFold8 b => .opd (opdWord 0x11#8 (b.setWidth 32) 0#32 0#32 0#16)
  | .crcFold16 h => .opd (opdWord 0x12#8 (h.setWidth 32) 0#32 0#32 0#16)
  | .crcFinalize => .opd (opdWord 0x13#8 0#32 0#32 0#32 0#16)
  | .crcCheckCfg cfg => .opd (opdWord 0x14#8 cfg 0#32 0#32 0#16)
  | .setEee => .cmdw (cmdWord p .setEee 0#16)
  | .setQuick w => .cmdw (cmdWord p .setQuick w)
  | .query => .cmdw (cmdWord p .query 0#16)
  | .complete => .cmdw (cmdWord p .complete 0#16)
  | .page1 a b => .eeew a [b]
  | .page4 a b0 b1 b2 b3 => .eeew a [b0, b1, b2, b3]

/-- What the opcode table's row of `nbits` bits stands for: a CMDW of 32 bits, an EEEW of one byte (DATA 7:0, a 39:8), an
EEEW of four bytes (DATA 31:0, little-endian as 20_memory.md R62 has it, a 63:32), else an OPD. A row of 8 bits is an
OPD's OP field or PAGE1's DATA field, the only field the table gives it; it is PAGE1 where the byte is no OP. -/
def tableIssueWord (nbits w : Nat) : IssueWord :=
  match nbits with
  | 32 => .cmdw (BitVec.ofNat 32 w)
  | 40 => .eeew (BitVec.ofNat 32 (w / 2 ^ 8)) [BitVec.ofNat 8 w]
  | 64 => .eeew (BitVec.ofNat 32 (w / 2 ^ 32))
      [BitVec.ofNat 8 w, BitVec.ofNat 8 (w / 2 ^ 8), BitVec.ofNat 8 (w / 2 ^ 16), BitVec.ofNat 8 (w / 2 ^ 24)]
  | 8 => if 1 ≤ w ∧ w ≤ 0x14 then .opd (BitVec.ofNat 128 w) else .eeew 0#32 [BitVec.ofNat 8 w]
  | _ => .opd (BitVec.ofNat 128 w)

/-- The instruction the decoder reads from a row of the opcode table, with the reference codes of 30_encoding.md R92. -/
def decodeTableWord (nbits w : Nat) : Option Instr :=
  match decode Params.reference (tableIssueWord nbits w) with
  | .ok i => some i
  | .error _ => none

end Sys2Proof
end

