-- ==== Sys2Proof/Machine/State.lean ====
section
/-! DEFINITION. The state of the block, its controller and its caller's memory as plain data (10_state.md), the reasons a
step can stop, and the state after reset. -/

namespace Sys2Proof.Machine

/-- The fault reasons of 60_exceptions.md R408. `State.raise` records one in `fault`; a step from a state that records
one answers `.fault` with it (R408: no later step is defined). All are safe: the model stops where the spec gives no
meaning. -/
inductive Fault where
  /-- A launch or a page issue while CC = 0 (10_state.md R27, 40_dispatch_polling.md R126, R134). Safe. -/
  | launchWhileBusy
  /-- A launch with an unknown command or function code (40 R128). Safe. -/
  | cmdReserved
  /-- A launch with ACCERR or PVIOL still set (40 R128). Safe. -/
  | launchWithError
  /-- SET_QUICK outside NORMAL mode or with an illegal window (40 R141). Safe. -/
  | cmdIllegalMode
  /-- A page issue with READY = 0 (40 R134). Safe. -/
  | stageOffline
  /-- A page beyond the end of the staging buffer (40 R134). Safe. -/
  | outOfRange
  /-- PAGE4 at an address that is no multiple of 4 (40 R131, R134). Safe. -/
  | pageUnaligned
  /-- PAGE1 in quick mode (40 R134). Safe. -/
  | quickUnaligned
  /-- A page issue without the needed routine in the RAM shadow (40 R134, 70_reset_and_hazards.md R460). Safe. -/
  | noRoutine
  /-- A staging read while a command or page is in flight (40 R149, 42_read_compare.md R200, R210). Safe. -/
  | readWhileBusy
  /-- READ or COMPARE in quick mode (42 R200, R210). Safe. -/
  | readInQuick
  /-- A CMDPARAM write while CC = 0 (40 R150). Safe. -/
  | paramWriteWhileBusy
  /-- A staging store other than PAGE1 or PAGE4 (40 R150, 30_encoding.md R94). Safe. -/
  | stageWriteBypass
  /-- An operation invoked while another runs, or a callback that breaks its duty (40 R151, 60 R413). Safe. -/
  | reentry
  /-- A poll budget of zero at INIT (40 R137). Safe. -/
  | configTimeoutZero
  /-- INIT in quick mode or with a transfer PENDING (43_init_brownout.md R238). Safe. -/
  | initWhileActive
  /-- An OP that is not in the opcode map (30 R98). Safe. -/
  | opReserved
  /-- An OP whose configuration flag is false (30 R98). Safe. -/
  | opNotConfigured
  /-- A non-zero reserved operand bit, an unknown routine kind, a null `cfg` to CRC_CHECK_CFG (30 R98). Safe. -/
  | operandReserved
  /-- A caller buffer that wraps the 32-bit address space (60 R402). Safe. -/
  | bufferWrap
  /-- A caller buffer that meets the staging window, the controller registers or the RAM shadow (60 R402). Safe. -/
  | bufferOverlap
  deriving DecidableEq, Repr

/-- Why a step has no meaning without any fault of the spec. -/
inductive Refusal where
  /-- Raised by `exec` for an instruction without a meaning. No arm raises it. Safe. -/
  | notModelled (mnemonic : String)
  /-- Raised by an access of the CPU from outside the block (no instruction) to a place where the spec gives no effect:
  CONFIG, an unnamed register, a register access wider than a byte, the RAM shadow, the end of the address space. Safe. -/
  | accessUndescribed
  deriving DecidableEq, Repr

/-- A memory: (address, byte) pairs, addresses strictly rising, no entry equal to what an unlisted address reads as. -/
abbrev Mem := List Host.Cell

/-- `fc.mode` (10_state.md R34). -/
inductive FlexMode where
  | offline
  | normal
  | quick (w : Half)
  deriving DecidableEq, Repr

/-- `fc.inflight` (R35): nothing, a Set FlexRAM Function command with its length, or a page write of `n` bytes at `a`. -/
inductive Inflight where
  | none
  | cmd (c : Command) (len : Half)
  | page (a : Word) (n : Nat)
  deriving DecidableEq, Repr

/-- The four brown-out codes (R36). -/
inductive BoCode where
  | none | maint | quick | normal
  deriving DecidableEq, Repr

/-- What DECODE_BO gives (43_init_brownout.md R236). -/
inductive BoSeen where
  | code (c : BoCode)
  | unknown
  deriving DecidableEq, Repr

/-- `seq.srckind` (R40). -/
inductive SrcKind where
  | buffer | pattern
  deriving DecidableEq, Repr

/-- `seq.result` (R40). -/
inductive SeqResult where
  | idle | pending | ok | failed | canceled
  deriving DecidableEq, Repr

/-- `seq.routine` (R44). -/
inductive Routine where
  | none | erase | write
  deriving DecidableEq, Repr

/-- The statuses an operation returns (00_scope.md R14), and CANCELED, which POLL returns (41_write_paths.md R171). -/
inductive Status where
  | ok | failed | writeRequested | inconsistent | notReady | timeout | fellBack | rejected | canceled
  deriving DecidableEq, Repr

/-- What an operation gave its caller: the status, and the second result where its rule gives one. -/
structure Return where
  status : Status
  count : Option Nat
  deriving DecidableEq, Repr

/-- The development-error codes (60_exceptions.md R415). -/
inductive DetCode where
  | paramAddress | paramLength | paramPointer | paramConfig | paramQuick
  | uninit | busy | timeout | cfgCrc | cancelQuick
  deriving DecidableEq, Repr

/-- A development-error event (60_exceptions.md R411): module and instance number, the OP of the reporting operation, the
error code. -/
structure DetEvent where
  moduleId : Nat
  instanceId : Nat
  service : Byte
  code : DetCode
  deriving DecidableEq, Repr

/-- The production-error events (43_init_brownout.md R237). -/
inductive DemId where
  | boMaint | boQuick | boNormal | boUnknown
  deriving DecidableEq, Repr

/-- A production-error event with its FAILED or PASSED. -/
structure DemEvent where
  id : DemId
  failed : Bool
  deriving DecidableEq, Repr

/-- Where an operation waits (the `wait` of WAIT_COMPLETE, 40_dispatch_polling.md R136), and what it does then. -/
inductive WaitPoint where
  /-- DISPATCH invoked by a caller (40 R122). -/
  | dispatched
  /-- INIT's SET_EEE, its first QUERY, its COMPLETE and its second QUERY: I2, I3, I5, I6 (43 R240). -/
  | initOnline | initQuery | initMaint | initRecheck
  /-- QUICK_ENTER's SET_QUICK and its fallback SET_EEE (44 R272). -/
  | quickEnter | quickFallback
  /-- QUICK_EXIT's SET_EEE (44 R274). -/
  | quickExit
  /-- A page of a synchronous write or erase of `len` bytes (41 R160, R180). -/
  | page (len : Word)
  /-- WAIT_READY (44 R280). -/
  | ready
  deriving DecidableEq, Repr

/-- The step position (10_state.md R21): no operation runs, or the one with this OP waits there. -/
inductive Pos where
  | idle
  | waiting (op : Byte) (at_ : WaitPoint)
  deriving DecidableEq, Repr

/-- The drawn outcome of one FC_COMPLETE (40_dispatch_polling.md R143 to R146). Nothing constrains a field, log 4. -/
structure FcDraw where
  /-- The drawn subset of ACCERR, PVIOL, CSTAT (R146). -/
  accerr : Bool
  pviol : Bool
  cstat : Bool
  /-- The pending amount after COMPLETE (R144). -/
  pend : Nat
  /-- RES_PEND after QUERY (R142, R143). -/
  resPend : List Byte
  /-- RES_BO after a QUERY with an error (R142). -/
  resBo : Byte
  /-- The bytes of a failed page in the staging buffer and in the non-volatile image (R145). -/
  stageBytes : List Byte
  nvBytes : List Byte
  deriving DecidableEq, Repr

/-- The draws and unspecified values of one reset (70_reset_and_hazards.md R451). Nothing constrains a field, log 4. -/
structure ResetDraw where
  /-- CONFIG.READY (10_state.md R30). -/
  ready : Bool
  configRest : Byte
  /-- `fc.bo_latch` and `fc.pend` (R38). -/
  boLatch : BoCode
  pend : Nat
  /-- The values of the interrupted bytes, in `Stage` and `fc.nv` (R39). -/
  interrupted : List Host.Cell
  /-- `Stage` where READY = 0 (R39). -/
  stage : List Host.Cell
  cmdparam : Vector Byte 12
  dst : Word
  src : Word
  srckind : SrcKind
  rem : Word
  tmo : Word
  shadow : List Host.Cell
  /-- The low 16 bits of `crc.sr` (R46), log 23. -/
  crc : Half
  deriving DecidableEq, Repr

/-- How a progress callback breaks what 40_dispatch_polling.md R151 requires of it: it invokes an operation of the block, it
accesses the controller registers or the staging buffer, or it does not return. -/
inductive CallbackBreach where
  | invokes | touches | neverReturns
  deriving DecidableEq, Repr

/-- What moves next: one entry is one step. The agents are interleaved freely (20_memory.md R70), so nothing constrains the
list, log 4. -/
inductive Input where
  /-- The running operation takes its next step (one poll iteration, 40 R136). -/
  | seqStep
  /-- The controller takes FC_COMPLETE with this outcome (40 R146). -/
  | fcComplete (d : FcDraw)
  /-- An operation is invoked, a command word launched or a staging store made (30_encoding.md R90, R101). -/
  | issue (w : IssueWord)
  /-- A reset (70 R450). -/
  | reset (d : ResetDraw)
  /-- The running operation's poll iteration sees CC = 0 and calls the progress callback, which breaks its duty (40 R151). -/
  | callbackBreaks (how : CallbackBreach)
  /-- The CPU loads `n` bytes at `addr` from outside the block (40 R149), while an operation waits or not, log 43. -/
  | load (addr : Word) (n : Nat)
  /-- The CPU stores these bytes at `addr` from outside the block (40 R150, 10 R27), while an operation waits or not, log 43. -/
  | store (addr : Word) (data : List Byte)
  deriving DecidableEq, Repr

/-- Everything the spec gives the machine, and the model's own fields `par`, `inputs`, `ret`, `det`, `dem`,
`callbacks` and `loaded` (INVENTORY.md, State). STATUS.CC and CONFIG.READY are views of `inflight` and `mode` (R34, R35), log 11. -/
structure State where
  /-- The parameters (R48), log 1. -/
  par : Params
  /-- STATUS.COLL, ACCERR, PVIOL, CSTAT (R25). -/
  coll : Bool
  accerr : Bool
  pviol : Bool
  cstat : Bool
  /-- CONFIG's fields other than READY (R29). -/
  configRest : Byte
  /-- The twelve bytes of CMDPARAM (R31). -/
  cmdparam : Vector Byte 12
  /-- `Stage` (R33), by staging-relative address. -/
  stage : Mem
  /-- `fc.mode` (R34). -/
  mode : FlexMode
  /-- `fc.inflight` (R35). -/
  inflight : Inflight
  /-- `fc.bo_latch` (R36). -/
  boLatch : BoCode
  /-- `fc.pend` (R37). -/
  pend : Nat
  /-- `fc.nv` (R39), by staging-relative address. -/
  nv : Mem
  /-- `fc.qdirty` (R39): a set, as a strictly rising list. -/
  qdirty : List Nat
  /-- The transfer registers (R40). -/
  dst : Word
  src : Word
  srckind : SrcKind
  rem : Word
  result : SeqResult
  tmo : Word
  issued : Bool
  /-- `seq.init = INIT` (R41). -/
  initDone : Bool
  /-- `seq.quick` (R42). -/
  quick : Bool
  /-- `seq.bo_seen` (R43), log 46. -/
  boSeen : BoSeen
  /-- `seq.routine` and the RAM shadow (R44), by offset from `P_SHADOW_BASE`. -/
  routine : Routine
  shadow : Mem
  /-- `seq.fault` (R45). -/
  fault : Option Fault
  /-- `crc.sr` (R46). -/
  crcSr : Word
  /-- The caller's CPU memory (20_memory.md R60), by address. -/
  mem : Mem
  /-- The step position (R21). -/
  pos : Pos
  /-- What the last operation returned. -/
  ret : Option Return
  /-- The events emitted so far, the oldest first (00_scope.md R10). -/
  det : List DetEvent
  dem : List DemEvent
  /-- How often the progress callback was called (40 R151). -/
  callbacks : Nat
  /-- What the last CPU load from outside the block gave (10_state.md R25, R29, R31; 20_memory.md R66). -/
  loaded : List Byte
  /-- What moves next, log 4. -/
  inputs : List Input
  deriving DecidableEq, Repr

/-- The machine right after reset (70_reset_and_hazards.md R451). The values the spec leaves as draws or unspecified are
those of log 6 and log 7 (DESIGN CHOICE); the parameters are those of log 2 and log 3. -/
def State.reset : State :=
  { par := Params.reference
    coll := false, accerr := false, pviol := false, cstat := false
    configRest := 0#8
    cmdparam := Vector.replicate 12 0#8
    stage := [], mode := .offline, inflight := .none, boLatch := .none, pend := 0, nv := [], qdirty := []
    dst := 0#32, src := 0#32, srckind := .buffer, rem := 0#32, result := .idle, tmo := 0#32, issued := false
    initDone := false, quick := false, boSeen := .code .none, routine := .none, shadow := []
    fault := none, crcSr := 0#32
    mem := [], pos := .idle, ret := none, det := [], dem := [], callbacks := 0, loaded := [], inputs := [] }

end Sys2Proof.Machine
end

