-- ==== Sys2Proof/Machine/Ops.lean ====
section
/-! DEFINITION. The named operations over memory and over the sequencer's bookkeeping: reading and writing bytes, raising a
fault, signalling events, returning a status, invoking an operation. -/

namespace Sys2Proof.Machine

/-- What an address that a memory does not list reads as. The spec gives no content to any memory at power-on: DESIGN
CHOICE, log 8. -/
def Mem.unlisted : Byte := 0xFF#8

/-- One byte of a memory. -/
def Mem.read : Mem → Nat → Byte
  | [], _ => Mem.unlisted
  | c :: m, a => if a = c.1 then c.2 else Mem.read m a

/-- One byte written, in canonical form: a byte equal to what an unlisted address reads as is not listed. -/
def Mem.write : Mem → Nat → Byte → Mem
  | [], a, v => if v = Mem.unlisted then [] else [(a, v)]
  | c :: m, a, v =>
    if a < c.1 then (if v = Mem.unlisted then c :: m else (a, v) :: c :: m)
    else if a = c.1 then (if v = Mem.unlisted then m else (a, v) :: m)
    else c :: Mem.write m a v

/-- The canonical form: addresses strictly rising, no entry equal to what an unlisted address reads as. -/
abbrev Mem.wf (m : Mem) : Prop :=
  List.Pairwise (fun c d : Host.Cell => c.1 < d.1) m ∧ ∀ c ∈ m, c.2 ≠ Mem.unlisted

/-- Every listed address lies below `n`. -/
abbrev Mem.below (m : Mem) (n : Nat) : Prop := ∀ c ∈ m, c.1 < n

/-- Bytes written from `a` upwards, in ascending order (42_read_compare.md R200). -/
def Mem.writeBytes : Mem → Nat → List Byte → Mem
  | m, _, [] => m
  | m, a, b :: bs => Mem.writeBytes (Mem.write m a b) (a + 1) bs

/-- The `n` bytes from `a` upwards. -/
def Mem.readBytes (m : Mem) (a n : Nat) : List Byte := (List.range n).map fun i => Mem.read m (a + i)

/-- The bytes of `values` at each address of a list, written into a memory. -/
def Mem.copyAt (values : Mem) : List Nat → Mem → Mem
  | [], m => m
  | a :: as, m => Mem.copyAt values as (Mem.write m a (Mem.read values a))

/-- The memory that reads as any list of cells says, the last one of an address winning. -/
def Mem.ofCells : List Host.Cell → Mem → Mem
  | [], m => m
  | c :: cs, m => Mem.ofCells cs (Mem.write m c.1 c.2)

/-- The memory whose bytes below `n` are those of `f`. -/
def Mem.ofFn (n : Nat) (f : Nat → Byte) : Mem :=
  (List.range n).filterMap fun i => if f i = Mem.unlisted then none else some (i, f i)

/-- An address put into a set of addresses kept as a strictly rising list (10_state.md R39). -/
def insertAddr (a : Nat) : List Nat → List Nat
  | [] => [a]
  | b :: bs => if a < b then a :: b :: bs else if a = b then b :: bs else b :: insertAddr a bs

/-- The addresses of `n` bytes from `a` upwards. -/
def addrsFrom (a n : Nat) : List Nat := (List.range n).map fun i => a + i

/-- The 32-bit word a little-endian CPU stores for four bytes in address order (20_memory.md R62). -/
def wordOfBytes (b0 b1 b2 b3 : Byte) : Word :=
  b0.setWidth 32 ||| b1.setWidth 32 <<< 8 ||| b2.setWidth 32 <<< 16 ||| b3.setWidth 32 <<< 24

/-- The bytes a little-endian store of a word puts at rising addresses (20_memory.md R62). -/
def bytesOfWord (w : Word) : List Byte :=
  [w.extractLsb' 0 8, w.extractLsb' 8 8, w.extractLsb' 16 8, w.extractLsb' 24 8]

/-- `raise Fault(reason)` (00_scope.md R10): the state is marked, log 9. This is what stands for taking an exception: the
block has no trap, saves nothing and goes nowhere (60_exceptions.md R400, R411). -/
def State.raise (r : Fault) (s : State) : State := { s with fault := some r }

/-- The rest of an operation, which is not reached after a fault (60_exceptions.md R408). -/
def State.ifSound (s : State) (f : State → State) : State :=
  match s.fault with
  | none => f s
  | some _ => s

/-- `signal DET(code)` (00_scope.md R10) by the operation `op` (60_exceptions.md R411, log 19). -/
def State.signalDet (op : Byte) (c : DetCode) (s : State) : State :=
  { s with det := if s.par.det then s.det ++ [⟨s.par.detModule, s.par.detInstance, op, c⟩] else s.det }

/-- `signal DEM(event, PASSED | FAILED)` (00_scope.md R10). -/
def State.signalDem (id : DemId) (failed : Bool) (s : State) : State :=
  { s with dem := if s.par.dem then s.dem ++ [⟨id, failed⟩] else s.dem }

/-- `return`: the operation ends and gives its caller a status (00_scope.md R10). -/
def State.finish (st : Status) (count : Option Nat) (s : State) : State :=
  { s with pos := .idle, ret := some ⟨st, count⟩ }

/-- An operation refused by an input or state check, with its one event (60_exceptions.md R402 to R404). -/
def State.reject (op : Byte) (c : DetCode) (count : Option Nat) (s : State) : State :=
  (s.signalDet op c).finish .rejected count

/-- The column "present when" of 30_encoding.md R95. -/
def opPresent (p : Params) (op : Byte) : Bool :=
  match op.toNat with
  | 0x02 => !p.async
  | 0x04 => !p.async
  | 0x03 => p.async
  | 0x05 => p.async
  | 0x06 => p.async
  | 0x09 => p.quick
  | 0x0A => p.quick
  | 0x0B => p.quick
  | 0x0C => p.cancel
  | 0x0D => p.loadOnStart
  | 0x0E => p.loadOnStart
  | _ => true

/-- The invocation of the operation `op`. Every operation is disabled after a fault (60_exceptions.md R408); one invoked
while another runs is REENTRY (R413); one whose flag is false is OP_NOT_CONFIGURED (30_encoding.md R98). -/
def State.invoke (s : State) (op : Byte) (body : State → State) : Host.Outcome State Fault Refusal :=
  match s.fault with
  | some r => .fault r
  | none =>
    .next (if s.pos = .idle then
        (if opPresent s.par op then body { s with ret := none } else s.raise .opNotConfigured)
      else s.raise .reentry)

/-- A command word or a staging store issued by itself, as the controller-side instructions of 30_encoding.md R101 are.
While an operation runs it comes from the callback or from a second caller: REENTRY (40_dispatch_polling.md R151). -/
def State.issueRaw (s : State) (body : State → State) : Host.Outcome State Fault Refusal :=
  match s.fault with
  | some r => .fault r
  | none => .next (if s.pos = .idle then body s else s.raise .reentry)

/-- The check `seq.init = INIT` that every operation but INIT and the CRC operations makes first (10_state.md R41). -/
def State.whenInit (op : Byte) (count : Option Nat) (body : State → State) (s : State) : State :=
  if s.initDone then body s else s.reject op .uninit count

end Sys2Proof.Machine
end

