-- ==== Sys2Proof/Machine/Flags.lean ====
section
/-! DEFINITION. The flags of the controller (10_state.md R22 to R30, R47): CC and READY, the error flags, the registers'
bytes, write-1-to-clear and the flag check. -/

namespace Sys2Proof.Machine

/-- STATUS.CC is 0: a command or a page write is in flight (10_state.md R35). -/
def State.busy (s : State) : Bool :=
  match s.inflight with
  | .none => false
  | .cmd _ _ => true
  | .page _ _ => true

/-- CONFIG.READY: the staging buffer is online (10_state.md R34). -/
def State.ready (s : State) : Bool :=
  match s.mode with
  | .offline => false
  | .normal => true
  | .quick _ => true

/-- The status is in error: a bit of ERRMASK is 1 (10_state.md R26). -/
def State.inError (s : State) : Bool := s.coll || s.accerr || s.pviol || s.cstat

/-- FLAG_CHECK (40_dispatch_polling.md R138): no flag ranks above another. -/
def State.flagCheck (s : State) : Status := if s.inError then .failed else .ok

/-- One bit of a register's byte. -/
def bitAt (k : Fin 8) (b : Bool) : Byte := if b then 1#8 <<< k.val else 0#8

/-- The byte a read of STATUS gives (10_state.md R25); bits without a field read as 0. -/
def State.statusByte (s : State) : Byte :=
  bitAt s.par.bitCc (!s.busy) ||| bitAt s.par.bitColl s.coll ||| bitAt s.par.bitAccerr s.accerr
    ||| bitAt s.par.bitPviol s.pviol ||| bitAt s.par.bitCstat s.cstat

/-- The byte a read of CONFIG gives (10_state.md R29). -/
def State.configByte (s : State) : Byte :=
  (s.configRest &&& ~~~ (bitAt s.par.bitReady true)) ||| bitAt s.par.bitReady s.ready

/-- The bits of a byte written to STATUS that do something (10_state.md R27). -/
structure StatusWrite where
  cc : Bool
  coll : Bool
  accerr : Bool
  pviol : Bool
  deriving DecidableEq, Repr

/-- Those bits of a byte, at the parameters' places (10_state.md R25). -/
def statusWriteOf (p : Params) (v : Byte) : StatusWrite :=
  { cc := v.getLsbD p.bitCc, coll := v.getLsbD p.bitColl, accerr := v.getLsbD p.bitAccerr, pviol := v.getLsbD p.bitPviol }

/-- CLRMASK (10_state.md R26). -/
def clrMask : StatusWrite := { cc := false, coll := true, accerr := true, pviol := true }

/-- The write of the CC bit alone that launches (40_dispatch_polling.md R122). -/
def launchMask : StatusWrite := { cc := true, coll := false, accerr := false, pviol := false }

/-- Part (a) of a write of STATUS: a flag whose bit is 1 becomes 0, bits that are 0 change nothing (10_state.md R27). -/
def State.clearFlags (w : StatusWrite) (s : State) : State :=
  { s with coll := s.coll && !w.coll, accerr := s.accerr && !w.accerr, pviol := s.pviol && !w.pviol }

/-- `W1C(STATUS, CLRMASK)`, before every launch and every page issue (40_dispatch_polling.md R127). -/
def State.w1c (s : State) : State := s.clearFlags clrMask

end Sys2Proof.Machine
end

