-- ==== Sys2Proof/Machine/Operands.lean ====
section
/-! DEFINITION. The operand forms: the input checks (60_exceptions.md R402, 44_quick_writes_wait.md R270), page sizes and
page bytes (40_dispatch_polling.md R132, R133), CMDPARAM's slots (10_state.md R31), the configuration set
(45_crc16.md R311, R312) and the routine images (44 R285, R287). -/

namespace Sys2Proof.Machine

/-- What CHECK_JOB answers. -/
inductive JobCheck where
  | accept
  | reject (c : DetCode)
  | stop (r : Fault)
  deriving DecidableEq, Repr

/-- Do `[a, a + n)` and `[b, b + m)` meet? -/
def meets (a n b m : Nat) : Bool := decide (max a b < min (a + n) (b + m))

/-- The buffer meets the staging window, the controller registers or the RAM shadow (60_exceptions.md R402). -/
def bufferOverlaps (p : Params) (ptr len : Nat) : Bool :=
  meets ptr len p.flexramBase.toNat p.eeeSize
    || meets ptr len p.ctrlBase.toNat p.ctrlSize
    || meets ptr len p.shadowBase.toNat p.shadowSize

/-- CHECK_JOB (60_exceptions.md R402). `ptr` is the caller's buffer of an operation that has one. -/
def State.checkJob (a len : Word) (ptr : Option Word) (s : State) : JobCheck :=
  if s.initDone = false then .reject .uninit
  else if s.par.eeeSize ≤ a.toNat then .reject .paramAddress
  else if len = 0#32 ∨ s.par.eeeSize < a.toNat + len.toNat then .reject .paramLength
  else if ptr = some 0#32 then .reject .paramPointer
  else if ptr.any (fun q => decide (2 ^ 32 < q.toNat + len.toNat)) then .stop .bufferWrap
  else if ptr.any (fun q => bufferOverlaps s.par q.toNat len.toNat) then .stop .bufferOverlap
  else if s.result = .pending then .reject .busy
  else .accept

/-- An operation behind CHECK_JOB; `count` is the second result its rule returns with REJECTED. -/
def State.whenJob (op : Byte) (count : Option Nat) (c : JobCheck) (body : State → State) (s : State) : State :=
  match c with
  | .accept => body s
  | .reject d => s.reject op d count
  | .stop r => s.raise r

/-- WINDOW_OK (44_quick_writes_wait.md R270). -/
def windowOk (p : Params) (w : Half) : Bool :=
  decide (p.qwMin ≤ w.toNat ∧ w.toNat ≤ p.qwMax ∧ w.toNat % p.qwStep = 0)

/-- PAGE_SIZE (40_dispatch_polling.md R132): the staging address alone decides. -/
def pageSize (d r : Word) : Nat := if d.toNat % 4 = 0 ∧ 4 ≤ r.toNat then 4 else 1

/-- PAGE_BYTES (40_dispatch_polling.md R133). -/
def State.pageBytes (n : Nat) (s : State) : List Byte :=
  match s.srckind with
  | .buffer => Mem.readBytes s.mem s.src.toNat n
  | .pattern => List.replicate n s.par.erasedValue

/-- The next page's bytes are issued: the cursor moves past them (41_write_paths.md R160, R172). -/
def State.advance (n : Nat) (s : State) : State :=
  { s with dst := s.dst + BitVec.ofNat 32 n, src := s.src + BitVec.ofNat 32 n, rem := s.rem - BitVec.ofNat 32 n }

/-- A byte of CMDPARAM (10_state.md R31). -/
def State.slot (k : Fin 12) (s : State) : Byte := s.cmdparam[k]

/-- A byte of CMDPARAM set by the controller. -/
def State.setSlot (k : Fin 12) (v : Byte) (s : State) : State := { s with cmdparam := s.cmdparam.set k v }

/-- `LEN = LEN_HI ++ LEN_LO` (20_memory.md R63). -/
def State.lenSlot (s : State) : Half := s.slot s.par.slotLenHi ++ s.slot s.par.slotLenLo

/-- A byte of RES_PEND is not zero (43_init_brownout.md R232). -/
def State.resPendSet (s : State) : Bool := s.par.slotPend.any fun k => s.slot k != 0#8

/-- The RES_BO value of a code (30_encoding.md R93). -/
def boValue (p : Params) : BoCode → Byte
  | .none => p.boNone
  | .maint => p.boMaint
  | .quick => p.boQuick
  | .normal => p.boNormal

/-- DECODE_BO (43_init_brownout.md R236). -/
def decodeBo (p : Params) (v : Byte) : BoSeen :=
  if v = p.boNone then .code .none
  else if v = p.boMaint then .code .maint
  else if v = p.boQuick then .code .quick
  else if v = p.boNormal then .code .normal
  else .unknown

/-- An operation of an expression over 32-bit words. -/
def exprOp : ExprOp → Word → Word → Word
  | .add, x, y => x + y
  | .sub, x, y => x - y
  | .and, x, y => x &&& y
  | .or, x, y => x ||| y
  | .xor, x, y => x ^^^ y
  | .shl, x, y => x <<< y.toNat
  | .shr, x, y => x >>> y.toNat
  | .ult, x, y => if x.toNat < y.toNat then 1#32 else 0#32
  | .eq, x, y => if x = y then 1#32 else 0#32

/-- The value of a layout's expression for the set at `cfg`; CPU addresses are 32 bits (20_memory.md R60, log 29). -/
def layoutValue (m : Mem) (cfg : Word) : LayoutExpr → Word
  | .base => cfg
  | .lit v => v
  | .byteAt e => (Mem.read m (layoutValue m cfg e).toNat).setWidth 32
  | .bin op x y => exprOp op (layoutValue m cfg x) (layoutValue m cfg y)
  | .cond c t e => if layoutValue m cfg c = 0#32 then layoutValue m cfg e else layoutValue m cfg t

/-- `P_CFG_LAYOUT(cfg)`: a numeric field of the configuration set (45_crc16.md R311), the mode as its MODE_VALUE; a mode that the
layout reads as another number than 0 or 1 goes on as that number, DESIGN CHOICE, log 44. It is read from the caller's memory
as it stands at the invocation, although 10_state.md R48 counts the set among what does not change, DESIGN CHOICE, log 47. -/
def State.cfgField (cfg : Word) (s : State) : CfgField → Word
  | .mode => layoutValue s.mem cfg s.par.cfgLayout.mode
  | .rdFast => layoutValue s.mem cfg s.par.cfgLayout.rdFast
  | .rdSlow => layoutValue s.mem cfg s.par.cfgLayout.rdSlow
  | .wrFast => layoutValue s.mem cfg s.par.cfgLayout.wrFast
  | .wrSlow => layoutValue s.mem cfg s.par.cfgLayout.wrSlow

/-- `P_CFG_LAYOUT(cfg)`: the stored checksum, 16 bits (45_crc16.md R311). -/
def State.cfgStored (cfg : Word) (s : State) : Half := (layoutValue s.mem cfg s.par.cfgLayout.stored).setWidth 16

/-- A CRC input item (45_crc16.md R312). -/
inductive CrcItem where
  | byte (b : Byte)
  | half (h : Half)
  deriving DecidableEq, Repr

/-- FOLDWORD (45_crc16.md R312). -/
def foldWord (v : Word) : List CrcItem :=
  (if 0xFFFF < v.toNat then [.half (v.extractLsb' 16 16)] else [])
    ++ (if 0xFF < v.toNat then [.half (v.extractLsb' 0 16)] else [.byte (v.extractLsb' 0 8)])

/-- The value of a serialisation's expression for these fields. -/
def serValue (field : CfgField → Word) : SerExpr → Word
  | .field f => field f
  | .lit v => v
  | .bin op x y => exprOp op (serValue field x) (serValue field y)
  | .cond c t e => if serValue field c = 0#32 then serValue field e else serValue field t

/-- The items of one entry of `P_CFG_CRC_SER` (45_crc16.md R312). -/
def serItems (field : CfgField → Word) : SerEntry → List CrcItem
  | .foldWord v => foldWord (serValue field v)
  | .byteItem present v => if serValue field present = 0#32 then [] else [.byte ((serValue field v).extractLsb' 0 8)]
  | .halfItem present v => if serValue field present = 0#32 then [] else [.half ((serValue field v).extractLsb' 0 16)]

/-- UNLOAD_BYTE(i) (44_quick_writes_wait.md R287). -/
def unloadByte (p : Params) (i : Nat) : Byte := p.unloadPattern.extractLsb' (8 * (i % 4)) 8

/-- The image of a routine kind; none for NONE. -/
def routineOf (p : Params) : Routine → Option RoutineImage
  | .none => none
  | .erase => some p.eraseRoutine
  | .write => some p.writeRoutine

/-- The byte the RAM shadow holds at offset `i` with this routine loaded (44_quick_writes_wait.md R285, R286). -/
def shadowByte (p : Params) (k : Routine) (i : Nat) : Byte :=
  match routineOf p k with
  | none => unloadByte p i
  | some r => if r.off ≤ i ∧ i < r.off + r.code.length then r.code.getD (i - r.off) 0#8 else unloadByte p i

/-- The whole RAM shadow with this routine loaded. -/
def shadowImage (p : Params) (k : Routine) : Mem := Mem.ofFn p.shadowSize (shadowByte p k)

/-- ENTRY(k), the tagged address of the block's indirect call (44_quick_writes_wait.md R285, 70_reset_and_hazards.md R462). -/
def routineEntry (p : Params) (r : RoutineImage) : Word :=
  (p.shadowBase + BitVec.ofNat 32 (r.off + r.entry)) ||| p.entryTag

/-- The routine a page of this transfer needs (44_quick_writes_wait.md R289). -/
def requiredRoutine : SrcKind → Routine
  | .buffer => .write
  | .pattern => .erase

end Sys2Proof.Machine
end

