-- ==== Sys2Proof/Machine/Crc.lean ====
section
/-! DEFINITION. The CRC-16-CCITT validator (45_crc16.md). -/

namespace Sys2Proof.Machine

/-- The passes of ACC (R304): where the lead bit is set the polynomial is subtracted; both move one place down. -/
def accPasses : Nat → Word → Word → Word → Word
  | 0, _, _, sr => sr
  | n + 1, poly, lead, sr => accPasses n (poly >>> 1) (lead >>> 1) (if sr &&& lead ≠ 0#32 then sr ^^^ poly else sr)

/-- ACC(8) (R304). -/
def acc8 (sr : Word) : Word := accPasses 8 0x00881080#32 0x00800000#32 sr &&& 0x0000FFFF#32

/-- ACC(16) (R304). -/
def acc16 (sr : Word) : Word := accPasses 16 0x88108000#32 0x80000000#32 sr &&& 0x0000FFFF#32

/-- CRC_FOLD8's new shift register (R302). -/
def fold8 (sr : Word) (b : Byte) : Word := acc8 (sr <<< 8 ||| b.setWidth 32)

/-- CRC_FOLD16's new shift register (R303). -/
def fold16 (sr : Word) (h : Half) : Word := acc16 (sr <<< 16 ||| h.setWidth 32)

/-- CRC_FINALIZE's new shift register (R305). -/
def finalizeCrc (sr : Word) : Word := acc16 (sr <<< 16)

/-- One input item of a configuration check (R310). -/
def foldItem (sr : Word) : CrcItem → Word
  | .byte b => fold8 sr b
  | .half h => fold16 sr h

/-- The CRC of a list of items from the initial value, finalized (R310). -/
def crcOfItems (init : Half) (items : List CrcItem) : Word := finalizeCrc (items.foldl foldItem (init.setWidth 32))

/-- The CRC input items of the configuration set at `cfg` (R310 to R312). -/
def State.cfgItems (cfg : Word) (s : State) : List CrcItem := s.par.cfgSer.flatMap (serItems fun f => s.cfgField cfg f)

/-- The shift register after CRC_CHECK_CFG's computation (R310). -/
def State.checkCfg (cfg : Word) (s : State) : State := { s with crcSr := crcOfItems s.par.crcInit (s.cfgItems cfg) }

/-- The checksum just computed is the stored one (R310). -/
def State.cfgMatches (cfg : Word) (s : State) : Bool := s.crcSr.setWidth 16 == s.cfgStored cfg

/-- CRC_RESET (R301). -/
def execCrcReset (s : State) : Host.Outcome State Fault Refusal :=
  s.invoke 0x10#8 fun t => { t with crcSr := t.par.crcInit.setWidth 32 }

/-- CRC_FOLD8 (R302). -/
def execCrcFold8 (b : Byte) (s : State) : Host.Outcome State Fault Refusal :=
  s.invoke 0x11#8 fun t => { t with crcSr := fold8 t.crcSr b }

/-- CRC_FOLD16 (R303). -/
def execCrcFold16 (h : Half) (s : State) : Host.Outcome State Fault Refusal :=
  s.invoke 0x12#8 fun t => { t with crcSr := fold16 t.crcSr h }

/-- CRC_FINALIZE (R305). -/
def execCrcFinalize (s : State) : Host.Outcome State Fault Refusal :=
  s.invoke 0x13#8 fun t => { t with crcSr := finalizeCrc t.crcSr }

/-- CRC_CHECK_CFG invoked by a caller (R310); a null `cfg` is OPERAND_RESERVED. -/
def execCrcCheckCfg (cfg : Word) (s : State) : Host.Outcome State Fault Refusal :=
  s.invoke 0x14#8 fun t =>
    if cfg = 0#32 then t.raise .operandReserved
    else if (t.checkCfg cfg).cfgMatches cfg then (t.checkCfg cfg).finish .ok none
    else (t.checkCfg cfg).finish .failed none

end Sys2Proof.Machine
end

