-- ==== Sys2Proof/Machine/Commands.lean ====
section
/-! DEFINITION. The Set FlexRAM Function commands: the controller's side of a launch (40_dispatch_polling.md R128), the four
command words by themselves (R140 to R144) and what each does when it completes. -/

namespace Sys2Proof.Machine

/-- A write of a CMDPARAM byte: it stores the byte; while busy it has no meaning (20_memory.md R66, 40_dispatch_polling.md
R150). -/
def State.writeParam (k : Fin 12) (v : Byte) (s : State) : State :=
  if s.busy then s.raise .paramWriteWhileBusy else s.setSlot k v

/-- The command word put into its slots, one byte at a time; LEN only for the function code of SET_QUICK
(40_dispatch_polling.md R122, R129). -/
def State.writeCommand (fcode : Byte) (len : Half) (s : State) : State :=
  let s1 := (s.writeParam s.par.slotCmd s.par.cmdSetfr).writeParam s.par.slotFc fcode
  if fcode = s.par.fcQuick then
    (s1.writeParam s.par.slotLenHi (len.extractLsb' 8 8)).writeParam s.par.slotLenLo (len.extractLsb' 0 8)
  else s1

/-- SET_QUICK is legal only in NORMAL mode with a legal window (40_dispatch_polling.md R141). R141 writes its bounds as 16, 512
and 4; that the controller's check takes P_QW_MIN, P_QW_MAX and P_QW_STEP, whose values those are, is the model's choice:
DESIGN CHOICE, log 45. -/
def State.quickLegal (w : Half) (s : State) : Bool := decide (s.mode = .normal) && windowOk s.par w

/-- The launch while CC = 1, controller side (40_dispatch_polling.md R128); the checks of SET_QUICK come last (log 15). -/
def State.launch (s : State) : State :=
  if s.slot s.par.slotCmd = s.par.cmdSetfr then
    match commandOf s.par (s.slot s.par.slotFc) with
    | none => s.raise .cmdReserved
    | some c =>
      if s.accerr || s.pviol then s.raise .launchWithError
      else if c = .setQuick ∧ s.quickLegal s.lenSlot = false then s.raise .cmdIllegalMode
      else { s with cstat := false, inflight := .cmd c s.lenSlot }
  else s.raise .cmdReserved

/-- `RegWrite(STATUS, v)` (10_state.md R27): (a) clear, (b) launch, (c) nothing else. -/
def State.writeStatus (w : StatusWrite) (s : State) : State :=
  let s1 := s.clearFlags w
  if w.cc then (if s1.busy then s1.raise .launchWhileBusy else s1.launch) else s1

/-- A command word launched: its bytes into the slots, then the write of CC. While busy it is LAUNCH_WHILE_BUSY, as DISPATCH
checks first (40_dispatch_polling.md R122, R126, log 14). -/
def State.issueCommand (fcode : Byte) (len : Half) (s : State) : State :=
  if s.busy then s.raise .launchWhileBusy else (s.writeCommand fcode len).writeStatus launchMask

/-- SET_EEE launched by itself (R140). -/
def execSetEee (s : State) : Host.Outcome State Fault Refusal :=
  s.issueRaw fun t => t.issueCommand t.par.fcEee 0#16

/-- SET_QUICK launched by itself (R141). -/
def execSetQuick (w : Half) (s : State) : Host.Outcome State Fault Refusal :=
  s.issueRaw fun t => t.issueCommand t.par.fcQuick w

/-- QUERY launched by itself (R142). -/
def execQuery (s : State) : Host.Outcome State Fault Refusal :=
  s.issueRaw fun t => t.issueCommand t.par.fcQuery 0#16

/-- COMPLETE launched by itself (R144). -/
def execComplete (s : State) : Host.Outcome State Fault Refusal :=
  s.issueRaw fun t => t.issueCommand t.par.fcComplete 0#16

/-- SET_EEE completed without error (R140). -/
def State.completeSetEee (s : State) : State :=
  match s.mode with
  | .offline => { s with mode := .normal, stage := s.nv }
  | .normal => { s with mode := .normal }
  | .quick _ => { s with mode := .normal, nv := Mem.copyAt s.stage s.qdirty s.nv, qdirty := [] }

/-- SET_QUICK completed without error (R141). -/
def State.completeSetQuick (w : Half) (s : State) : State := { s with mode := .quick w }

/-- `n` bytes of a draw; a draw too short is filled with zeros. -/
def drawn (n : Nat) (d : List Byte) : List Byte := (List.range n).map fun i => d.getD i 0#8

/-- The bytes of RES_PEND after an error-free QUERY (R143): all zero without pending work; with it the draw, which a draw of
zeros alone is not (its first byte is then 1), log 22. -/
def pendResult (n pend : Nat) (d : List Byte) : List Byte :=
  if pend = 0 then List.replicate n 0#8
  else if (drawn n d).all (· == 0#8) then (drawn n d).set 0 1#8
  else drawn n d

/-- Bytes put into the slots of RES_PEND. -/
def State.setSlots : List (Fin 12) → List Byte → State → State
  | k :: ks, b :: bs, s => State.setSlots ks bs (s.setSlot k b)
  | _, _, s => s

/-- QUERY completed without error (R142, R143): the results and nothing else. -/
def State.completeQuery (d : FcDraw) (s : State) : State :=
  State.setSlots s.par.slotPend (pendResult s.par.pendBytes s.pend d.resPend)
    (s.setSlot s.par.slotBo (boValue s.par s.boLatch))

/-- QUERY completed with an error: RES_BO and RES_PEND take any value (R142). -/
def State.failQuery (d : FcDraw) (s : State) : State :=
  State.setSlots s.par.slotPend (drawn s.par.pendBytes d.resPend) (s.setSlot s.par.slotBo d.resBo)

/-- COMPLETE completed without error (R144). -/
def State.completeComplete (d : FcDraw) (s : State) : State := { s with pend := d.pend }

/-- The effect of a command that completes without error (R146). -/
def State.completeCommand (c : Command) (len : Half) (d : FcDraw) (s : State) : State :=
  match c with
  | .setEee => s.completeSetEee
  | .setQuick => s.completeSetQuick len
  | .query => s.completeQuery d
  | .complete => s.completeComplete d

/-- A command that completes with an error: no effect but QUERY's result slots (R142, R145). -/
def State.failCommand (c : Command) (d : FcDraw) (s : State) : State :=
  match c with
  | .setEee => s
  | .setQuick => s
  | .query => s.failQuery d
  | .complete => s

end Sys2Proof.Machine
end

