-- ==== Sys2Proof/Machine/Pages.lean ====
section
/-! DEFINITION. Page writes: the issue with its ordered checks (40_dispatch_polling.md R130, R131, R134) and the completion
(R145, R148). -/

namespace Sys2Proof.Machine

/-- The routine the page needs is not in the RAM shadow; without P_LOAD_ON_START both always are (R134,
44_quick_writes_wait.md R288). -/
def State.routineMissing (s : State) : Bool := s.par.loadOnStart && decide (s.routine ≠ requiredRoutine s.srckind)

/-- The controller is in quick-writes mode. -/
def State.quickMode (s : State) : Bool :=
  match s.mode with
  | .offline => false
  | .normal => false
  | .quick _ => true

/-- PAGE_PRECHECK(a, n) (R134): the first check that fails. -/
def State.pagePrecheck (a : Word) (n : Nat) (s : State) : Option Fault :=
  if s.busy then some .launchWhileBusy
  else if s.ready = false then some .stageOffline
  else if s.par.eeeSize < a.toNat + n then some .outOfRange
  else if n = 4 ∧ a.toNat % 4 ≠ 0 then some .pageUnaligned
  else if s.quickMode ∧ n ≠ 4 then some .quickUnaligned
  else if s.routineMissing then some .noRoutine
  else none

/-- A page issue: the checks, the clear of the flags, the store and the controller's side of it, in one step (R130, R131). -/
def State.issuePage (a : Word) (bytes : List Byte) (s : State) : State :=
  match s.pagePrecheck a bytes.length with
  | some r => s.raise r
  | none =>
    { s.w1c with
      stage := Mem.writeBytes s.stage a.toNat bytes, cstat := false, inflight := .page a bytes.length }

/-- PAGE1: one 8-bit store (R130). -/
def execPage1 (a : Word) (b : Byte) (s : State) : Host.Outcome State Fault Refusal :=
  s.issueRaw fun t => t.issuePage a [b]

/-- PAGE4: one little-endian 32-bit store (R131, 20_memory.md R62). -/
def execPage4 (a : Word) (b0 b1 b2 b3 : Byte) (s : State) : Host.Outcome State Fault Refusal :=
  s.issueRaw fun t => t.issuePage a (bytesOfWord (wordOfBytes b0 b1 b2 b3))

/-- A page completed without error: into the non-volatile image, or into the dirty set in quick mode (R148). -/
def State.completePage (a : Word) (n : Nat) (s : State) : State :=
  if s.quickMode then { s with qdirty := (addrsFrom a.toNat n).foldl (fun q x => insertAddr x q) s.qdirty }
  else { s with nv := Mem.copyAt s.stage (addrsFrom a.toNat n) s.nv }

/-- A page completed with an error: its bytes take any value in the staging buffer and in the image (R145, log 21). -/
def State.failPage (a : Word) (n : Nat) (d : FcDraw) (s : State) : State :=
  { s with
    stage := Mem.writeBytes s.stage a.toNat (drawn n d.stageBytes)
    nv := Mem.writeBytes s.nv a.toNat (drawn n d.nvBytes) }

/-- The drawn outcome is no error (R146). -/
def FcDraw.clean (d : FcDraw) : Bool := !d.accerr && !d.pviol && !d.cstat

/-- The effect of FC_COMPLETE on everything but the flags (R145, R146). -/
def State.completeWork (d : FcDraw) (s : State) : State :=
  match s.inflight with
  | .none => s
  | .cmd c len => if d.clean then s.completeCommand c len d else s.failCommand c d
  | .page a n => if d.clean then s.completePage a n else s.failPage a n d

/-- FC_COMPLETE (R146). It is enabled only while something is in flight; COLL is never set (R149). -/
def State.fcComplete (d : FcDraw) (s : State) : State :=
  if s.busy then
    { s.completeWork d with
      accerr := s.accerr || d.accerr, pviol := s.pviol || d.pviol, cstat := d.cstat, inflight := .none }
  else s

end Sys2Proof.Machine
end

