-- ==== Sys2Proof/Machine/Polling.lean ====
section
/-! DEFINITION. The command dispatch primitive and the entry of the completion wait loop (40_dispatch_polling.md R122,
R136, R139). -/

namespace Sys2Proof.Machine

/-- WAIT_COMPLETE is entered: the poll budget is loaded (R136, R137) and the operation waits. So INIT's four waits load and
count down `seq.tmo`, which 43_init_brownout.md R235 and 10_state.md R40 together call unchanged on NOT_READY: the model
follows R136, DESIGN CHOICE, log 40. -/
def State.startWait (op : Byte) (w : WaitPoint) (s : State) : State :=
  { s with tmo := s.par.timeout.getD s.tmo, pos := .waiting op w }

/-- `seq.tmo <- seq.tmo - 1` (40_dispatch_polling.md R136, 41_write_paths.md R172). Counters are natural numbers (00_scope.md
R9); that 0 - 1 is 0 is the model's reading, so that a budget already at 0 has run out. DESIGN CHOICE, log 41. -/
def State.countDown (s : State) : State := { s with tmo := if s.tmo = 0#32 then 0#32 else s.tmo - 1#32 }

/-- DISPATCH up to its wait (R122): CC is checked, the flags are cleared, the slots are written, the command is launched. -/
def State.dispatchCommand (op : Byte) (w : WaitPoint) (fcode : Byte) (len : Half) (s : State) : State :=
  if s.busy then s.raise .launchWhileBusy
  else (s.w1c.issueCommand fcode len).ifSound (State.startWait op w)

/-- How a waited command ends (R139): a timeout gives FAILED and its event, else the flags decide. -/
def State.commandEnd (op : Byte) (expired : Bool) (k : Status → State → State) (s : State) : State :=
  if expired then k .failed (s.signalDet op .timeout) else k s.flagCheck s

/-- DISPATCH invoked by a caller (R122). -/
def execDispatch (fcode : Byte) (len : Half) (s : State) : Host.Outcome State Fault Refusal :=
  s.invoke 0x0F#8 fun t => t.whenInit 0x0F#8 none (State.dispatchCommand 0x0F#8 .dispatched fcode len)

/-- DISPATCH after its wait: the status is returned (R122). -/
def State.afterDispatch (st : Status) (s : State) : State := s.finish st none

end Sys2Proof.Machine
end

