-- ==== Sys2Proof/Machine/Init.lean ====
section
/-! DEFINITION. INIT and the brown-out recovery (43_init_brownout.md). Its states I0 to I7 are R240's. -/

namespace Sys2Proof.Machine

/-- I3: the first QUERY (R230). -/
def State.initQueryStep (s : State) : State := s.dispatchCommand 0x01#8 .initQuery s.par.fcQuery 0#16

/-- I2: SET_EEE where READY = 0, else on to I3 (R230, R231). -/
def State.initOnlineStep (s : State) : State :=
  if s.ready then s.initQueryStep else s.dispatchCommand 0x01#8 .initOnline s.par.fcEee 0#16

/-- I7 (R230, R240). -/
def State.initDoneStep (s : State) : State :=
  { s with initDone := true, quick := false, result := .idle, issued := false }.finish .ok none

/-- REPORT_BO (R237): four events in this order. -/
def State.reportBo (bo : BoSeen) (s : State) : State :=
  (((s.signalDem .boMaint (decide (bo = .code .maint))).signalDem .boQuick (decide (bo = .code .quick))).signalDem
    .boNormal (decide (bo = .code .normal))).signalDem .boUnknown (decide (bo = .unknown))

/-- I4, then I5 where the code or the pending bytes ask for maintenance, else I7 (R230, R233). `seq.bo_seen` is set at I4 however
INIT ends, as R230 and R235 have it, although 10_state.md R43 calls it the code of the last successful INIT. DESIGN CHOICE,
log 46. -/
def State.initReportStep (s : State) : State :=
  let bo := decodeBo s.par (s.slot s.par.slotBo)
  let t := { s with boSeen := bo }.reportBo bo
  if bo ≠ .code .none ∨ s.resPendSet then t.dispatchCommand 0x01#8 .initMaint t.par.fcComplete 0#16
  else t.initDoneStep

/-- After I2's SET_EEE: READY is read again (R231). -/
def State.afterInitOnline (st : Status) (s : State) : State :=
  if st = .ok ∧ s.ready then s.initQueryStep else s.finish .notReady none

/-- After I3's QUERY (R230, R232). -/
def State.afterInitQuery (st : Status) (s : State) : State :=
  if st = .ok then s.initReportStep else s.finish .notReady none

/-- After I5's COMPLETE: I6's QUERY (R230, R234). -/
def State.afterInitMaint (st : Status) (s : State) : State :=
  if st = .ok then s.dispatchCommand 0x01#8 .initRecheck s.par.fcQuery 0#16 else s.finish .notReady none

/-- After I6's QUERY: only the pending bytes are verified (R230, R234). -/
def State.afterInitRecheck (st : Status) (s : State) : State :=
  if st = .ok ∧ s.resPendSet = false then s.initDoneStep else s.finish .notReady none

/-- I1 and on (R230): the configuration's checksum before any register access. -/
def State.initCheckStep (cfg : Word) (s : State) : State :=
  if s.cfgMatches cfg then { s with initDone := false }.initOnlineStep
  else ({ s with initDone := false }.signalDet 0x01#8 .cfgCrc).finish .failed none

/-- INIT (R230), from I0. -/
def execInit (cfg : Word) (s : State) : Host.Outcome State Fault Refusal :=
  s.invoke 0x01#8 fun t =>
    if cfg = 0#32 then t.reject 0x01#8 .paramConfig none
    else if t.par.timeout = some 0#32 then t.raise .configTimeoutZero
    else if t.quick ∨ t.result = .pending then t.raise .initWhileActive
    else (t.checkCfg cfg).initCheckStep cfg

end Sys2Proof.Machine
end

