-- ==== Sys2Proof/Machine/Quick.lean ====
section
/-! DEFINITION. Quick-writes mode and WAIT_READY (44_quick_writes_wait.md). -/

namespace Sys2Proof.Machine

/-- QUICK_CHECK behind its init check (R270): the first failing check alone is reported. -/
def State.quickCheckStep (dst src len : Word) (w : Half) (s : State) : State :=
  if windowOk s.par w = false then s.reject 0x09#8 .paramQuick none
  else if dst.toNat % 4 ≠ 0 then s.reject 0x09#8 .paramAddress none
  else if src.toNat % 4 ≠ 0 then s.reject 0x09#8 .paramPointer none
  else if len.toNat % w.toNat ≠ 0 then s.reject 0x09#8 .paramLength none
  else s.finish .ok none

/-- QUICK_CHECK (R270). -/
def execQuickCheck (dst src len : Word) (w : Half) (s : State) : Host.Outcome State Fault Refusal :=
  s.invoke 0x09#8 fun t => t.whenInit 0x09#8 none (State.quickCheckStep dst src len w)

/-- QUICK_ENTER behind its init check (R272). -/
def State.quickEnterStep (w : Half) (s : State) : State :=
  if windowOk s.par w = false then s.reject 0x0A#8 .paramQuick none
  else if s.quick then s.reject 0x0A#8 .busy none
  else s.dispatchCommand 0x0A#8 .quickEnter s.par.fcQuick w

/-- QUICK_ENTER (R272). -/
def execQuickEnter (w : Half) (s : State) : Host.Outcome State Fault Refusal :=
  s.invoke 0x0A#8 fun t => t.whenInit 0x0A#8 none (State.quickEnterStep w)

/-- After QUICK_ENTER's SET_QUICK (R272): in quick mode, or back to normal mode where CC = 1. -/
def State.afterQuickEnter (st : Status) (s : State) : State :=
  if st = .ok then { s with quick := true }.finish .ok none
  else if s.busy then s.finish .failed none
  else s.dispatchCommand 0x0A#8 .quickFallback s.par.fcEee 0#16

/-- After QUICK_ENTER's fallback SET_EEE (R272). -/
def State.afterQuickFallback (st : Status) (s : State) : State :=
  if st = .ok then s.finish .fellBack none else s.finish .failed none

/-- QUICK_EXIT (R274). -/
def execQuickExit (s : State) : Host.Outcome State Fault Refusal :=
  s.invoke 0x0B#8 fun t =>
    t.whenInit 0x0B#8 none fun u => u.dispatchCommand 0x0B#8 .quickExit u.par.fcEee 0#16

/-- After QUICK_EXIT's SET_EEE (R274). -/
def State.afterQuickExit (st : Status) (s : State) : State :=
  if st = .ok then { s with quick := false }.finish st none else s.finish st none

/-- WAIT_READY behind its init check (R280). -/
def State.waitReadyStep (s : State) : State :=
  if s.quick then s.reject 0x0C#8 .cancelQuick none else s.startWait 0x0C#8 .ready

/-- WAIT_READY (R280). -/
def execWaitReady (s : State) : Host.Outcome State Fault Refusal :=
  s.invoke 0x0C#8 fun t => t.whenInit 0x0C#8 none State.waitReadyStep

/-- A pending transfer is cancelled (R280). -/
def State.cancelTransfer (s : State) : State :=
  { s with issued := false, result := if s.result = .pending then .canceled else s.result }

/-- After WAIT_READY's wait (R280): the flags are not checked. -/
def State.afterReady (op : Byte) (expired : Bool) (s : State) : State :=
  if expired then (s.cancelTransfer.signalDet op .timeout).finish .timeout none
  else s.cancelTransfer.finish .ok none

end Sys2Proof.Machine
end

