-- ==== Sys2Proof/Machine/Writes.lean ====
section
/-! DEFINITION. The synchronous and the asynchronous write and erase paths (41_write_paths.md). -/

namespace Sys2Proof.Machine

/-- The loop of WRITE.S and ERASE.S up to its next wait (R160): done, or the next page issued. -/
def State.writeLoop (op : Byte) (len : Word) (s : State) : State :=
  if s.rem = 0#32 then s.finish .ok (some len.toNat)
  else (s.issuePage s.dst (s.pageBytes (pageSize s.dst s.rem))).ifSound (State.startWait op (.page len))

/-- A page's wait has ended (R160): a timeout or a flag error stops the transfer at this page; else the cursor moves on. -/
def State.afterPage (op : Byte) (len : Word) (expired : Bool) (s : State) : State :=
  if expired then (s.signalDet op .timeout).finish .failed (some (len.toNat - s.rem.toNat))
  else if s.inError then s.finish .failed (some (len.toNat - s.rem.toNat))
  else (s.advance (pageSize s.dst s.rem)).writeLoop op len

/-- The transfer registers of a new transfer (R160, R170, R180, R181); an erase has no source (log 28). -/
def State.loadTransfer (dst len : Word) (src : Option Word) (s : State) : State :=
  { s with
    dst := dst, src := src.getD s.src, rem := len
    srckind := match src with | some _ => .buffer | none => .pattern }

/-- A synchronous transfer behind its check (R160, R180). -/
def State.startSync (op : Byte) (dst len : Word) (src : Option Word) (s : State) : State :=
  if s.ready then (s.loadTransfer dst len src).writeLoop op len else s.finish .failed (some 0)

/-- The budget is reloaded (R170, R172). -/
def State.reloadTmo (s : State) : State := { s with tmo := s.par.timeout.getD s.tmo }

/-- ASYNC_STEP with the controller busy: one poll (R172). A budget already at 0, left by another operation's timeout while
the transfer is PENDING, has run out: DESIGN CHOICE, log 41. -/
def State.asyncBusy (op : Byte) (s : State) : State :=
  match s.par.timeout with
  | none => s.finish .writeRequested (some 0)
  | some _ =>
    if s.countDown.tmo = 0#32 then
      ({ s.countDown with result := .failed, issued := false }.signalDet op .timeout).finish .failed (some 0)
    else s.countDown.finish .writeRequested (some 0)

/-- ASYNC_STEP's issue of the next page of `n` bytes (R172). -/
def State.asyncIssue (n : Nat) (s : State) : State :=
  (s.issuePage s.dst (s.pageBytes n)).ifSound fun t =>
    ({ t.advance n with issued := true }.reloadTmo).finish .writeRequested (some n)

/-- ASYNC_STEP (R172): one read of STATUS, at most one page. -/
def State.asyncStep (op : Byte) (s : State) : State :=
  if s.busy then s.asyncBusy op
  else if s.issued && s.inError then { s with issued := false, result := .failed }.finish .failed (some 0)
  else if s.rem = 0#32 then { s with issued := false, result := .ok }.finish .ok (some 0)
  else { s with issued := false }.asyncIssue (pageSize s.dst s.rem)

/-- An asynchronous transfer behind its check (R170, R181). -/
def State.startAsync (op : Byte) (dst len : Word) (src : Option Word) (s : State) : State :=
  if s.ready then
    ({ s.loadTransfer dst len src with issued := false, result := .pending }.reloadTmo).asyncStep op
  else { s with result := .failed }.finish .failed (some 0)

/-- WRITE.S (R160). -/
def execWriteS (dst src len : Word) (s : State) : Host.Outcome State Fault Refusal :=
  s.invoke 0x02#8 fun t =>
    t.whenJob 0x02#8 (some 0) (t.checkJob dst len (some src)) (State.startSync 0x02#8 dst len (some src))

/-- WRITE.A (R170). -/
def execWriteA (dst src len : Word) (s : State) : Host.Outcome State Fault Refusal :=
  s.invoke 0x03#8 fun t =>
    t.whenJob 0x03#8 (some 0) (t.checkJob dst len (some src)) (State.startAsync 0x03#8 dst len (some src))

/-- ERASE.S (R180). -/
def execEraseS (dst len : Word) (s : State) : Host.Outcome State Fault Refusal :=
  s.invoke 0x04#8 fun t =>
    t.whenJob 0x04#8 (some 0) (t.checkJob dst len none) (State.startSync 0x04#8 dst len none)

/-- ERASE.A (R181). -/
def execEraseA (dst len : Word) (s : State) : Host.Outcome State Fault Refusal :=
  s.invoke 0x05#8 fun t =>
    t.whenJob 0x05#8 (some 0) (t.checkJob dst len none) (State.startAsync 0x05#8 dst len none)

/-- POLL behind its check (R171). -/
def State.pollResult (s : State) : State :=
  match s.result with
  | .pending => s.asyncStep 0x06#8
  | .ok => s.finish .ok (some 0)
  | .failed => s.finish .failed (some 0)
  | .canceled => s.finish .canceled (some 0)
  | .idle => s.finish .rejected (some 0)

/-- POLL (R171). -/
def execPoll (s : State) : Host.Outcome State Fault Refusal :=
  s.invoke 0x06#8 fun t => t.whenInit 0x06#8 (some 0) State.pollResult

end Sys2Proof.Machine
end

