-- ==== Sys2Proof/Machine/Resume.lean ====
section
/-! DEFINITION. One poll iteration of a waiting operation and what the operation does when its wait ends
(40_dispatch_polling.md R136). -/

namespace Sys2Proof.Machine

/-- The wait has ended, by CC = 1 or by the budget: the operation goes on to its next wait or its return. -/
def State.afterWait (op : Byte) (w : WaitPoint) (expired : Bool) (s : State) : State :=
  match w with
  | .dispatched => s.commandEnd op expired State.afterDispatch
  | .initOnline => s.commandEnd op expired State.afterInitOnline
  | .initQuery => s.commandEnd op expired State.afterInitQuery
  | .initMaint => s.commandEnd op expired State.afterInitMaint
  | .initRecheck => s.commandEnd op expired State.afterInitRecheck
  | .quickEnter => s.commandEnd op expired State.afterQuickEnter
  | .quickFallback => s.commandEnd op expired State.afterQuickFallback
  | .quickExit => s.commandEnd op expired State.afterQuickExit
  | .page len => s.afterPage op len expired
  | .ready => s.afterReady op expired

/-- The progress callback is called, where there is one (R136, R151). -/
def State.callCallback (s : State) : State :=
  { s with callbacks := if s.par.callback then s.callbacks + 1 else s.callbacks }

/-- One poll iteration (R136): CC is read; while it is 0 the callback is called, then the budget is decremented, and at zero
the wait has expired. -/
def State.pollIteration (op : Byte) (w : WaitPoint) (s : State) : State :=
  if s.busy then
    match s.par.timeout with
    | none => s.callCallback
    | some _ =>
      if s.callCallback.countDown.tmo = 0#32 then s.callCallback.countDown.afterWait op w true
      else s.callCallback.countDown
  else s.afterWait op w false

/-- The sequencer's next step: a poll iteration of the operation that waits; with none it stands still (00_scope.md R11). -/
def State.sequencerStep (s : State) : State :=
  match s.pos with
  | .idle => s
  | .waiting op w => s.pollIteration op w

end Sys2Proof.Machine
end

