-- ==== Sys2Proof/Machine/Inputs.lean ====
section
/-! DEFINITION. What is not an instruction: reset, accesses by the CPU from outside the block, the callback's misbehaviour,
and the choice of what a step does (20_memory.md R70, 70_reset_and_hazards.md R450). -/

namespace Sys2Proof.Machine

/-- The bytes a reset interrupts: those of a page in flight and those of the dirty set (10_state.md R39). -/
def State.interruptedAddrs (s : State) : List Nat :=
  match s.inflight with
  | .none => s.qdirty
  | .cmd _ _ => s.qdirty
  | .page a n => addrsFrom a.toNat n ++ s.qdirty

/-- `fc.nv` after a reset (R39): it persists, and an interrupted byte takes any value. -/
def State.nvAfterReset (d : ResetDraw) (s : State) : Mem :=
  Mem.copyAt (Mem.ofCells d.interrupted []) s.interruptedAddrs s.nv

/-- A reset with its draws (70_reset_and_hazards.md R450, R451). What lies outside the block stays: the parameters, the
caller's memory, the events already emitted, the callback count, the loaded bytes and the inputs to come. No rule says so
of the caller's memory and of these counts: DESIGN CHOICE, log 42. -/
def State.afterReset (d : ResetDraw) (s : State) : State :=
  { s with
    coll := false, accerr := false, pviol := false, cstat := false
    configRest := d.configRest, cmdparam := d.cmdparam
    nv := s.nvAfterReset d
    stage := if d.ready then s.nvAfterReset d
      else Mem.ofCells (d.stage.filter fun c => decide (c.1 < s.par.eeeSize)) []
    mode := if d.ready then .normal else .offline
    inflight := .none, boLatch := d.boLatch, pend := d.pend, qdirty := []
    dst := d.dst, src := d.src, srckind := d.srckind, rem := d.rem, result := .idle, tmo := d.tmo, issued := false
    initDone := false, quick := false, boSeen := .code .none
    routine := .none, shadow := Mem.ofCells (d.shadow.filter fun c => decide (c.1 < s.par.shadowSize)) []
    fault := none, crcSr := d.crc.setWidth 32
    pos := .idle, ret := none }

/-- The byte the CPU sees at an address that is no controller register (20_memory.md R60, R61). -/
def State.busByte (s : State) (a : Nat) : Byte :=
  if meets a 1 s.par.flexramBase.toNat s.par.eeeSize then Mem.read s.stage (a - s.par.flexramBase.toNat)
  else if meets a 1 s.par.shadowBase.toNat s.par.shadowSize then Mem.read s.shadow (a - s.par.shadowBase.toNat)
  else Mem.read s.mem a

/-- The CMDPARAM byte at this offset from P_CTRL_BASE (10_state.md R24). -/
def cmdparamAt (p : Params) (off : Nat) : Option (Fin 12) :=
  (List.finRange 12).find? fun k => p.offCmdparam[k] == off

/-- `RegRead` of the register at this offset from P_CTRL_BASE (10_state.md R24, R25, R29, R31); none where the spec names no
register. -/
def State.readRegister (off : Nat) (s : State) : Option Byte :=
  if off = s.par.offStatus then some s.statusByte
  else if off = s.par.offConfig then some s.configByte
  else (cmdparamAt s.par off).map fun k => s.slot k

/-- A CPU load of `n` bytes from outside the block: of the staging window while busy it is refused (40_dispatch_polling.md
R149); any other has no side effect (20_memory.md R66) and gives its bytes. -/
def State.cpuLoad (addr : Word) (n : Nat) (s : State) : Host.Outcome State Fault Refusal :=
  if meets addr.toNat n s.par.flexramBase.toNat s.par.eeeSize && s.busy then .next (s.raise .readWhileBusy)
  else if meets addr.toNat n s.par.ctrlBase.toNat s.par.ctrlSize then
    match n, s.readRegister (addr.toNat - s.par.ctrlBase.toNat) with
    | 1, some v => .next { s with loaded := [v] }
    | _, _ => .refused .accessUndescribed
  else if 2 ^ 32 < addr.toNat + n then .refused .accessUndescribed
  else .next { s with loaded := (List.range n).map fun i => s.busByte (addr.toNat + i) }

/-- A CPU store of a byte to a controller register from outside the block (10_state.md R27, 40_dispatch_polling.md R150). -/
def State.storeRegister (off : Nat) (v : Byte) (s : State) : Host.Outcome State Fault Refusal :=
  if off = s.par.offStatus then .next (s.writeStatus (statusWriteOf s.par v))
  else match cmdparamAt s.par off with
    | some k => .next (s.writeParam k v)
    | none => .refused .accessUndescribed

/-- A CPU store from outside the block. To the staging window it is STAGE_WRITE_BYPASS (40_dispatch_polling.md R150,
70_reset_and_hazards.md R470); to a caller buffer it writes the bytes; where the spec gives no effect it is refused (log 26). -/
def State.cpuStore (addr : Word) (data : List Byte) (s : State) : Host.Outcome State Fault Refusal :=
  if meets addr.toNat data.length s.par.flexramBase.toNat s.par.eeeSize then .next (s.raise .stageWriteBypass)
  else if meets addr.toNat data.length s.par.ctrlBase.toNat s.par.ctrlSize then
    match data with
    | [v] => s.storeRegister (addr.toNat - s.par.ctrlBase.toNat) v
    | _ => .refused .accessUndescribed
  else if meets addr.toNat data.length s.par.shadowBase.toNat s.par.shadowSize
      ∨ 2 ^ 32 < addr.toNat + data.length then .refused .accessUndescribed
  else .next { s with mem := Mem.writeBytes s.mem addr.toNat data }

/-- A poll iteration whose callback breaks its duty (40_dispatch_polling.md R151): it is REENTRY, however the callback breaks
it. The callback is called only where a wait reads CC = 0 and there is one; elsewhere this cannot happen and the entry is
dropped, log 18. -/
def State.callbackBreach (_how : CallbackBreach) (s : State) : State :=
  match s.pos with
  | .idle => s
  | .waiting _ _ => if s.busy && s.par.callback then s.callCallback.raise .reentry else s

/-- The fault of a presented form that is no instruction (30_encoding.md R98). The operation must exist before its operands
are looked at (log 17). -/
def State.decodeFault (e : DecodeError) (s : State) : Fault :=
  match e with
  | .opReserved _ => .opReserved
  | .operandReserved op => if opPresent s.par op then .operandReserved else .opNotConfigured
  | .cmdReserved => if s.busy then .launchWhileBusy else .cmdReserved
  | .storeSize => .stageWriteBypass

/-- The build in which this form exists (30_encoding.md R95, "present when"), log 10. -/
def Params.inBuildOf (w : IssueWord) (p : Params) : Params :=
  match w with
  | .opd d =>
    let op := (opdOp d).toNat
    { p with
      async := if op = 0x02 ∨ op = 0x04 then false else if op = 0x03 ∨ op = 0x05 ∨ op = 0x06 then true else p.async
      quick := p.quick || op == 0x09 || op == 0x0A || op == 0x0B
      cancel := p.cancel || op == 0x0C
      loadOnStart := p.loadOnStart || op == 0x0D || op == 0x0E }
  | .cmdw _ => p
  | .eeew _ _ => p

/-- What a step does: run an instruction in a state, or something that is no instruction. -/
inductive Action where
  | run (i : Instr) (s : State)
  | other (o : Host.Outcome State Fault Refusal)

/-- A form presented to the block: the instruction it decodes to, or its fault; while an operation runs it is REENTRY
either way (60_exceptions.md R413). -/
def State.present (w : IssueWord) (s : State) : Action :=
  match decode s.par w with
  | .ok i => .run i s
  | .error e => .other (.next (if s.pos = .idle then s.raise (s.decodeFault e) else s.raise .reentry))

/-- After a fault no step is defined but a reset (60_exceptions.md R408, 10_state.md R45, 70_reset_and_hazards.md R450). -/
def State.faultedStep (r : Fault) (s : State) : Host.Outcome State Fault Refusal :=
  match s.inputs with
  | .reset d :: rest => .next ({ s with inputs := rest }.afterReset d)
  | _ => .fault r

/-- The next step: the head of the inputs says who moves; with none left the sequencer does (log 5). A CPU load or store that
comes while an operation waits, and not from its callback, has its ordinary effect or fault and is no REENTRY: the spec is
silent on it, DESIGN CHOICE, log 43. -/
def State.nextAction (s : State) : Action :=
  match s.fault with
  | some r => .other (s.faultedStep r)
  | none =>
    match s.inputs with
    | [] => .other (.next s.sequencerStep)
    | .seqStep :: rest => .other (.next { s with inputs := rest }.sequencerStep)
    | .fcComplete d :: rest => .other (.next ({ s with inputs := rest }.fcComplete d))
    | .issue w :: rest => { s with inputs := rest }.present w
    | .reset d :: rest => .other (.next ({ s with inputs := rest }.afterReset d))
    | .callbackBreaks how :: rest => .other (.next ({ s with inputs := rest }.callbackBreach how))
    | .load a n :: rest => .other ({ s with inputs := rest }.cpuLoad a n)
    | .store a bs :: rest => .other ({ s with inputs := rest }.cpuStore a bs)

end Sys2Proof.Machine
end

