-- ==== Sys2Proof/Machine/ReadCompare.lean ====
section
/-! DEFINITION. READ and COMPARE (42_read_compare.md). Each loop is one atomic step (20_memory.md R72). -/

namespace Sys2Proof.Machine

/-- The checks between CHECK_JOB and the copy loop (R200, R210). -/
def State.whenReadable (body : State → State) (s : State) : State :=
  if s.ready = false then s.finish .failed none
  else if s.busy then s.raise .readWhileBusy
  else if s.quick then s.raise .readInQuick
  else body s

/-- READ's copy loop (R200). -/
def State.copyOut (src dst len : Word) (s : State) : State :=
  { s with mem := Mem.writeBytes s.mem dst.toNat (Mem.readBytes s.stage src.toNat len.toNat) }.finish .ok none

/-- READ (R200). -/
def execRead (src dst len : Word) (s : State) : Host.Outcome State Fault Refusal :=
  s.invoke 0x07#8 fun t =>
    t.whenJob 0x07#8 none (t.checkJob src len (some dst)) (State.whenReadable (State.copyOut src dst len))

/-- The index of the first place where two runs of bytes differ, scanning upwards (R210). -/
def firstDifference : List Byte → List Byte → Nat → Option Nat
  | x :: xs, y :: ys, i => if x = y then firstDifference xs ys (i + 1) else some i
  | _, _, _ => none

/-- COMPARE's loop (R210). -/
def State.compareOut (src buf len : Word) (s : State) : State :=
  match firstDifference (Mem.readBytes s.stage src.toNat len.toNat) (Mem.readBytes s.mem buf.toNat len.toNat) 0 with
  | some i => s.finish .inconsistent (some i)
  | none => s.finish .ok (some len.toNat)

/-- COMPARE (R210). -/
def execCompare (src buf len : Word) (s : State) : Host.Outcome State Fault Refusal :=
  s.invoke 0x08#8 fun t =>
    t.whenJob 0x08#8 none (t.checkJob src len (some buf)) (State.whenReadable (State.compareOut src buf len))

end Sys2Proof.Machine
end

