-- ==== Sys2Proof/Machine/Shadow.lean ====
section
/-! DEFINITION. Loading and unloading the access routine in the RAM shadow (44_quick_writes_wait.md R285 to R287). -/

namespace Sys2Proof.Machine

/-- The shadow holds this routine's image, or the unload pattern for none. -/
def State.fillShadow (k : Routine) (s : State) : State := { s with shadow := shadowImage s.par k, routine := k }

/-- The routine of a kind operand (R285). -/
def kindOf (kind : Byte) : Option Routine :=
  if kind = 1#8 then some .erase else if kind = 2#8 then some .write else none

/-- ROUTINE_LOAD (R285). -/
def execRoutineLoad (kind : Byte) (s : State) : Host.Outcome State Fault Refusal :=
  s.invoke 0x0D#8 fun t => t.whenInit 0x0D#8 none fun u =>
    match kindOf kind with
    | none => u.raise .operandReserved
    | some k => (u.fillShadow k).finish .ok none

/-- ROUTINE_UNLOAD (R286). -/
def execRoutineUnload (s : State) : Host.Outcome State Fault Refusal :=
  s.invoke 0x0E#8 fun t => t.whenInit 0x0E#8 none fun u => (u.fillShadow .none).finish .ok none

end Sys2Proof.Machine
end

