-- ==== Sys2Proof/Machine/Dispatch.lean ====
section
/-! DEFINITION. exec: one arm per instruction. -/

namespace Sys2Proof.Machine

def exec (i : Instr) (s : State) : Host.Outcome State Fault Refusal :=
  match i with
  | .init cfg => Sys2Proof.Machine.execInit cfg s
  | .writeS dst src len => Sys2Proof.Machine.execWriteS dst src len s
  | .writeA dst src len => Sys2Proof.Machine.execWriteA dst src len s
  | .eraseS dst len => Sys2Proof.Machine.execEraseS dst len s
  | .eraseA dst len => Sys2Proof.Machine.execEraseA dst len s
  | .poll => Sys2Proof.Machine.execPoll s
  | .read src dst len => Sys2Proof.Machine.execRead src dst len s
  | .compare src buf len => Sys2Proof.Machine.execCompare src buf len s
  | .quickCheck dst src len w => Sys2Proof.Machine.execQuickCheck dst src len w s
  | .quickEnter w => Sys2Proof.Machine.execQuickEnter w s
  | .quickExit => Sys2Proof.Machine.execQuickExit s
  | .waitReady => Sys2Proof.Machine.execWaitReady s
  | .routineLoad kind => Sys2Proof.Machine.execRoutineLoad kind s
  | .routineUnload => Sys2Proof.Machine.execRoutineUnload s
  | .dispatch fcode len => Sys2Proof.Machine.execDispatch fcode len s
  | .crcReset => Sys2Proof.Machine.execCrcReset s
  | .crcFold8 b => Sys2Proof.Machine.execCrcFold8 b s
  | .crcFold16 h => Sys2Proof.Machine.execCrcFold16 h s
  | .crcFinalize => Sys2Proof.Machine.execCrcFinalize s
  | .crcCheckCfg cfg => Sys2Proof.Machine.execCrcCheckCfg cfg s
  | .setEee => Sys2Proof.Machine.execSetEee s
  | .setQuick w => Sys2Proof.Machine.execSetQuick w s
  | .query => Sys2Proof.Machine.execQuery s
  | .complete => Sys2Proof.Machine.execComplete s
  | .page1 a b => Sys2Proof.Machine.execPage1 a b s
  | .page4 a b0 b1 b2 b3 => Sys2Proof.Machine.execPage4 a b0 b1 b2 b3 s

end Sys2Proof.Machine
end

