-- ==== Sys2Proof/Machine/Step.lean ====
section
/-! DEFINITION. One step, and how an instruction is placed where the next step takes it. -/

namespace Sys2Proof.Machine

/-- One step of the machine: the three outcomes are a next state, a fault (the state already records one, 60_exceptions.md
R408) and a refusal (an access from outside to which the spec gives no effect). -/
def step (s : State) : Host.Outcome State Fault Refusal :=
  match s.nextAction with
  | .run i t => exec i t
  | .other o => o

/-- The instruction of an opcode-table row presented next, in the build in which it exists: it is loaded from outside, as
every invocation is (log 10). -/
def State.withFetchWord (s : State) (nbits w : Nat) : State :=
  { s with
    inputs := .issue (tableIssueWord nbits w) :: s.inputs
    par := Params.inBuildOf (tableIssueWord nbits w) s.par }

end Sys2Proof.Machine
end

