-- ==== Sys2Proof/Safety.lean ====
section
/-! DEFINITION. What counts as a safe state and a safe run, in the terms the statements use. -/

namespace Sys2Proof.Machine

/-- A strictly rising list of addresses: a set in its one form (10_state.md R39). -/
abbrev addrSet (l : List Nat) : Prop := List.Pairwise (fun a b : Nat => a < b) l

/-- The window of quick mode is one SET_QUICK accepts (40_dispatch_polling.md R141, log 45). -/
def FlexMode.legal (p : Params) : FlexMode → Prop
  | .offline => True
  | .normal => True
  | .quick w => windowOk p w = true

/-- What is in flight was launched or issued legally (40_dispatch_polling.md R134, R141, log 45). -/
def Inflight.legal (p : Params) : Inflight → Prop
  | .none => True
  | .cmd c len => c = .setQuick → windowOk p len = true
  | .page a n => a.toNat + n ≤ p.eeeSize

/-- INIT's four waits: I2, I3, I5 and I6 (43_init_brownout.md R240). -/
abbrev initWaits : List WaitPoint := [.initOnline, .initQuery, .initMaint, .initRecheck]

/-- The invariant of the machine. Each field is a rule of the spec or the form of one of its memories. -/
structure State.Inv (s : State) : Prop where
  /-- The caller's memory is canonical and has 32-bit addresses (20_memory.md R60). -/
  mem : Mem.wf s.mem ∧ Mem.below s.mem (2 ^ 32)
  /-- `Stage` is canonical and has P_EEE_SIZE bytes (10_state.md R33). -/
  stage : Mem.wf s.stage ∧ Mem.below s.stage s.par.eeeSize
  /-- `fc.nv` is canonical and has P_EEE_SIZE bytes (10_state.md R39). -/
  nv : Mem.wf s.nv ∧ Mem.below s.nv s.par.eeeSize
  /-- `shadow` is canonical and has P_SHADOW_SIZE bytes (10_state.md R44). -/
  shadow : Mem.wf s.shadow ∧ Mem.below s.shadow s.par.shadowSize
  /-- `fc.qdirty` is a set of staging addresses (10_state.md R39). -/
  dirty : addrSet s.qdirty ∧ ∀ a ∈ s.qdirty, a < s.par.eeeSize
  /-- Outside quick mode every completed page is in `fc.nv` (10_state.md R39). -/
  committed : s.quickMode = false → s.qdirty = []
  mode : s.mode.legal s.par
  flight : s.inflight.legal s.par
  /-- Only the low 16 bits of `crc.sr` are non-zero between operations (10_state.md R46). -/
  crc : s.crcSr.toNat < 2 ^ 16
  /-- A page of a transfer is unchecked only while the transfer is PENDING (10_state.md R40, 41_write_paths.md R172). -/
  issued : s.issued = true → s.result = .pending
  /-- The RAM shadow holds the routine `seq.routine` names (10_state.md R44). -/
  routine : s.routine ≠ .none → s.shadow = shadowImage s.par s.routine
  /-- What is left of a PENDING transfer lies in the staging buffer (60_exceptions.md R402, 41_write_paths.md R172). -/
  pending : s.result = .pending → s.dst.toNat + s.rem.toNat ≤ s.par.eeeSize
  /-- So does what is left of a synchronous transfer that waits for its page, which is not nothing (41 R160). -/
  paging : ∀ op len, s.pos = .waiting op (.page len) →
    s.dst.toNat + s.rem.toNat ≤ s.par.eeeSize ∧ 0 < s.rem.toNat ∧ s.rem.toNat ≤ len.toNat
  /-- `seq.init` is UNINIT while INIT waits (43_init_brownout.md R230). -/
  starting : ∀ op, ∀ w ∈ initWaits, s.pos = .waiting op w → s.initDone = false

/-- The state records no fault, so the next step is defined (60_exceptions.md R408). -/
abbrev State.sound (s : State) : Prop := s.fault = none

/-- No operation runs and no fault is recorded: a caller may invoke an operation (60_exceptions.md R408, R413). -/
abbrev State.callable (s : State) : Prop := s.fault = none ∧ s.pos = .idle

/-- A run is safe when every state it goes through is sound (60_exceptions.md R408). -/
def safeRun (s : State) (n : Nat) : Prop := ∀ k ≤ n, ∀ t, Sys2Proof.core.run k s = .next t → t.sound

/-! The terms of the statements. They are written from the rules, beside the machine and not from it. -/

/-- `b` is one of the `n` addresses from `a` upwards. -/
abbrev inRange (b a n : Nat) : Prop := a ≤ b ∧ b < a + n

/-- A request that CHECK_JOB accepts, but for its buffer (60_exceptions.md R402). -/
abbrev State.accepts (s : State) (a len : Word) : Prop :=
  s.initDone = true ∧ len ≠ 0#32 ∧ a.toNat + len.toNat ≤ s.par.eeeSize ∧ s.result ≠ .pending

/-- A caller buffer that CHECK_JOB accepts (60_exceptions.md R402). -/
abbrev State.bufferOk (s : State) (q len : Word) : Prop :=
  q ≠ 0#32 ∧ q.toNat + len.toNat ≤ 2 ^ 32 ∧ bufferOverlaps s.par q.toNat len.toNat = false

/-- The buffer has an address in common with the staging window, the registers or the RAM shadow (60_exceptions.md R402). -/
def State.bufferMeets (s : State) (q len : Word) : Prop :=
  ∃ x, inRange x q.toNat len.toNat ∧
    (inRange x s.par.flexramBase.toNat s.par.eeeSize ∨ inRange x s.par.ctrlBase.toNat s.par.ctrlSize ∨
      inRange x s.par.shadowBase.toNat s.par.shadowSize)

/-- The events after a development-error event of the operation `op`, if they are enabled (60_exceptions.md R411). -/
def State.detWith (op : Byte) (c : DetCode) (s : State) : List DetEvent :=
  if s.par.det then s.det ++ [⟨s.par.detModule, s.par.detInstance, op, c⟩] else s.det

/-- An operation refused with one event: no other state changes (60_exceptions.md R403, R404). -/
def State.refusedWith (op : Byte) (c : DetCode) (count : Option Nat) (s : State) : State :=
  { s with ret := some ⟨.rejected, count⟩, det := s.detWith op c }

/-- An operation whose first step has no meaning (60_exceptions.md R408). -/
def State.faultedWith (r : Fault) (s : State) : State := { s with ret := none, fault := some r }

/-- The OP of an instruction of format OPD (30_encoding.md R95). -/
def opcodeOf : Instr → Option Byte
  | .init _ => some 0x01#8
  | .writeS _ _ _ => some 0x02#8
  | .writeA _ _ _ => some 0x03#8
  | .eraseS _ _ => some 0x04#8
  | .eraseA _ _ => some 0x05#8
  | .poll => some 0x06#8
  | .read _ _ _ => some 0x07#8
  | .compare _ _ _ => some 0x08#8
  | .quickCheck _ _ _ _ => some 0x09#8
  | .quickEnter _ => some 0x0A#8
  | .quickExit => some 0x0B#8
  | .waitReady => some 0x0C#8
  | .routineLoad _ => some 0x0D#8
  | .routineUnload => some 0x0E#8
  | .dispatch _ _ => some 0x0F#8
  | .crcReset => some 0x10#8
  | .crcFold8 _ => some 0x11#8
  | .crcFold16 _ => some 0x12#8
  | .crcFinalize => some 0x13#8
  | .crcCheckCfg _ => some 0x14#8
  | .setEee => none
  | .setQuick _ => none
  | .query => none
  | .complete => none
  | .page1 _ _ => none
  | .page4 _ _ _ _ _ => none

/-- INIT and the five CRC operations, which do not need INIT to have returned OK (70_reset_and_hazards.md R454). -/
def beforeInit : Instr → Bool
  | .init _ => true
  | .crcReset => true
  | .crcFold8 _ => true
  | .crcFold16 _ => true
  | .crcFinalize => true
  | .crcCheckCfg _ => true
  | .writeS _ _ _ => false
  | .writeA _ _ _ => false
  | .eraseS _ _ => false
  | .eraseA _ _ => false
  | .poll => false
  | .read _ _ _ => false
  | .compare _ _ _ => false
  | .quickCheck _ _ _ _ => false
  | .quickEnter _ => false
  | .quickExit => false
  | .waitReady => false
  | .routineLoad _ => false
  | .routineUnload => false
  | .dispatch _ _ => false
  | .setEee => false
  | .setQuick _ => false
  | .query => false
  | .complete => false
  | .page1 _ _ => false
  | .page4 _ _ _ _ _ => false

/-- What CHECK_JOB is asked by each of its six operations (60_exceptions.md R402): the address, the length, the buffer, and
the second result that comes with REJECTED. -/
inductive JobOf : Instr → Word → Word → Option Word → Option Nat → Prop where
  | writeS (dst src len : Word) : JobOf (.writeS dst src len) dst len (some src) (some 0)
  | writeA (dst src len : Word) : JobOf (.writeA dst src len) dst len (some src) (some 0)
  | eraseS (dst len : Word) : JobOf (.eraseS dst len) dst len none (some 0)
  | eraseA (dst len : Word) : JobOf (.eraseA dst len) dst len none (some 0)
  | read (src dst len : Word) : JobOf (.read src dst len) src len (some dst) none
  | compare (src buf len : Word) : JobOf (.compare src buf len) src len (some buf) none

/-- The instruction of format CMDW that launches a command (30_encoding.md R103). -/
def commandInstr (w : Half) : Command → Instr
  | .setEee => .setEee
  | .setQuick => .setQuick w
  | .query => .query
  | .complete => .complete

/-- CMDPARAM after DISPATCH has written the slots of a command (40_dispatch_polling.md R122, R129). -/
def State.slotsFor (fcode : Byte) (len : Half) (s : State) : Vector Byte 12 :=
  if fcode = s.par.fcQuick then
    (((s.cmdparam.set s.par.slotCmd s.par.cmdSetfr).set s.par.slotFc fcode).set s.par.slotLenHi
      (len.extractLsb' 8 8)).set s.par.slotLenLo (len.extractLsb' 0 8)
  else (s.cmdparam.set s.par.slotCmd s.par.cmdSetfr).set s.par.slotFc fcode

/-- The length the controller samples: SET_QUICK's own, else what the slot held (40_dispatch_polling.md R128, R129). -/
def State.lenFor (c : Command) (len : Half) (s : State) : Half :=
  if c = .setQuick then len else s.cmdparam[s.par.slotLenHi] ++ s.cmdparam[s.par.slotLenLo]

/-- A command the controller takes in this state (40_dispatch_polling.md R141, whose 16, 512 and 4 are taken as the window's
parameters, log 45). -/
abbrev State.commandLegal (c : Command) (len : Half) (s : State) : Prop :=
  c = .setQuick → s.mode = .normal ∧ s.par.qwMin ≤ len.toNat ∧ len.toNat ≤ s.par.qwMax ∧ len.toNat % s.par.qwStep = 0

/-- How many pages a transfer takes: head, middle words, tail (41_write_paths.md R161). -/
def pageCount (dst len : Word) : Nat :=
  let h := min len.toNat ((4 - dst.toNat % 4) % 4)
  let m := (len.toNat - h) / 4
  h + m + (len.toNat - h - 4 * m)

/-- The size of the first page of a transfer (40_dispatch_polling.md R132). -/
def firstPage (dst len : Word) : Nat := if dst.toNat % 4 = 0 ∧ 4 ≤ len.toNat then 4 else 1

/-- The page writes a transfer's first page needs to be legal (40_dispatch_polling.md R134). -/
abbrev State.pageLegal (k : Routine) (n : Nat) (s : State) : Prop :=
  s.inflight = .none ∧ s.mode ≠ .offline ∧ (s.quickMode = true → n = 4) ∧ (s.par.loadOnStart = true → s.routine = k)

/-- Error-free pages over the `n` bytes from `a` took the machine from `s` to `t`, with these values: they are in `Stage`, and
in quick mode their addresses are dirty, else they are in `fc.nv` too (20_memory.md R71, 40_dispatch_polling.md R148). -/
def State.holdsPages (s t : State) (a n : Nat) (value : Nat → Byte) : Prop :=
  (∀ b, Mem.read t.stage b = if inRange b a n then value b else Mem.read s.stage b) ∧
  if s.quickMode = true then t.nv = s.nv ∧ ∀ b, b ∈ t.qdirty ↔ b ∈ s.qdirty ∨ inRange b a n
  else t.qdirty = s.qdirty ∧ ∀ b, Mem.read t.nv b = if inRange b a n then value b else Mem.read s.nv b

/-- A transfer whose every page is legal: not offline, and in quick mode words alone (44_quick_writes_wait.md R273). -/
abbrev State.transferLegal (k : Routine) (dst len : Word) (s : State) : Prop :=
  s.inflight = .none ∧ s.mode ≠ .offline ∧ (s.quickMode = true → dst.toNat % 4 = 0 ∧ len.toNat % 4 = 0) ∧
  (s.par.loadOnStart = true → s.routine = k)

/-- What an operation returns when its wait runs out of budget (40_dispatch_polling.md R122; 41_write_paths.md R160;
43_init_brownout.md R235; 44_quick_writes_wait.md R272, R274, R280). -/
def State.timeoutReturn (s : State) : WaitPoint → Return
  | .dispatched => ⟨.failed, none⟩
  | .initOnline => ⟨.notReady, none⟩
  | .initQuery => ⟨.notReady, none⟩
  | .initMaint => ⟨.notReady, none⟩
  | .initRecheck => ⟨.notReady, none⟩
  | .quickEnter => ⟨.failed, none⟩
  | .quickFallback => ⟨.failed, none⟩
  | .quickExit => ⟨.failed, none⟩
  | .page len => ⟨.failed, some (len.toNat - s.rem.toNat)⟩
  | .ready => ⟨.timeout, none⟩

/-- The items of a field in the reference serialisation: a byte, a 16-bit item or two, by its size (45_crc16.md R312). -/
def itemsOfWord (v : Word) : List CrcItem :=
  if v.toNat ≤ 0xFF then [.byte (v.setWidth 8)]
  else if v.toNat ≤ 0xFFFF then [.half (v.setWidth 16)]
  else [.half ((v >>> 16).setWidth 16), .half (v.setWidth 16)]

/-- The number that `n` bytes of a memory make from the address `a` on, the least significant first. -/
def littleEndianAt (m : Mem) : Nat → Word → Nat
  | 0, _ => 0
  | n + 1, a => (Mem.read m a.toNat).toNat + 256 * littleEndianAt m n (a + 1#32)

/-- The serialisation turns fields of zeros into items of zeros, as 45_crc16.md R313 takes of any serialisation, log 25. -/
def State.serKeepsZero (s : State) : Prop :=
  ∀ x ∈ s.par.cfgSer.flatMap (serItems fun _ => 0#32), x = .byte 0#8 ∨ x = .half 0#16

/-- No two registers of the controller share an offset (10_state.md R24). -/
abbrev State.registersApart (s : State) : Prop :=
  (s.par.offStatus :: s.par.offConfig :: s.par.offCmdparam.toList).Nodup

/-- The product of two polynomials over GF(2), the first given by the bits of a number below `2 ^ n` (45_crc16.md R304). -/
def clmul : Nat → Nat → Word → Word
  | 0, _, _ => 0#32
  | n + 1, q, g => (if q.testBit n then g <<< n else 0#32) ^^^ clmul n q g

/-- Instructions executed one after the other. -/
def runInstrs : List Instr → State → Option State
  | [], s => some s
  | i :: is, s =>
    match exec i s with
    | .next t => runInstrs is t
    | .fault _ => none
    | .refused _ => none

/-- The CRC operation that folds an item (45_crc16.md R310). -/
def itemInstr : CrcItem → Instr
  | .byte b => .crcFold8 b
  | .half h => .crcFold16 h

end Sys2Proof.Machine
end

