-- ==== Sys2Proof/Certificates/Slice0/Obligations.lean ====
section
/-! DEFINITION. The statements for the provers, one `def Obligations.<Name> : Prop` each. An equation `exec i s = .next { s
with … }` gives an instruction's result and its frame at once: every field that is not named keeps its value, and so every
byte of every memory that is not named. Where a memory changes, the statement says through `Mem.read` what each byte is. -/

open Sys2Proof Sys2Proof.Machine

/-! ## Encoding -/

/-- Every operand of every instruction survives encoding and decoding (30_encoding.md R91, R94, R95, R96, R97), with any
function codes that are pairwise different (R92). -/
def Obligations.DecodeOfEncode : Prop :=
  ∀ (p : Params) (i : Instr), [p.fcEee, p.fcQuick, p.fcQuery, p.fcComplete].Nodup → decode p (encode p i) = .ok i

/-- A form that decodes is the encoding of what it decodes to: no bit of it is dropped, but for LEN of a command that has no
length (40_dispatch_polling.md R129). -/
def Obligations.EncodeOfDecode : Prop :=
  ∀ (p : Params) (i : Instr), [p.fcEee, p.fcQuick, p.fcQuery, p.fcComplete].Nodup →
    (∀ w, decode p (.opd w) = .ok i → encode p i = .opd w) ∧
    (∀ a data, decode p (.eeew a data) = .ok i → encode p i = .eeew a data) ∧
    (∀ w, decode p (.cmdw w) = .ok i →
      encode p i = .cmdw (if w.extractLsb' 16 8 = p.fcQuick then w else w &&& 0xFFFF0000#32))

/-- Words written out from the encoding tables decode to their instructions (95_test_vectors.md V-ENC-1 to V-ENC-5,
V-ENC-10, P2, P3). -/
def Obligations.SampleWordsDecode : Prop :=
  decode Params.reference (.opd 0x00000000000000000000002000000001#128) = .ok (.init 0x20000000#32) ∧
  decode Params.reference (.opd 0x0000000000000A200001000000010102#128) = .ok (.writeS 0x101#32 0x20000100#32 10#32) ∧
  decode Params.reference (.opd 0x0000000000000720000300000000FE03#128) = .ok (.writeA 0xFE#32 0x20000300#32 7#32) ∧
  decode Params.reference (.opd 0x00001000000020200004000000020009#128) =
    .ok (.quickCheck 0x200#32 0x20000400#32 32#32 16#16) ∧
  decode Params.reference (.opd 0x0000400000000000000000000000AA0F#128) = .ok (.dispatch 0xAA#8 0x40#16) ∧
  decode Params.reference (.opd 0x00000000000000000000000000567812#128) = .ok (.crcFold16 0x5678#16) ∧
  decode Params.reference (.cmdw 0x81AA0040#32) = .ok (.setQuick 64#16)

/-- A descriptor that is no encoding, presented while no operation runs (30_encoding.md R98): an OP outside the map is
OP_RESERVED; one whose configuration flag (R95, "present when") does not hold is OP_NOT_CONFIGURED; any other that no
instruction encodes to has an operand bit set that must be 0, OPERAND_RESERVED. That the flag comes before the operand bits
is the model's choice, log 17. -/
def Obligations.IllegalDescriptorsFault : Prop :=
  ∀ (s : State) (w : Descriptor) (rest : List Input), s.callable → s.inputs = .issue (.opd w) :: rest →
    let op := (opdOp w).toNat
    if op = 0 ∨ 0x14 < op then step s = .next { s with inputs := rest, fault := some .opReserved }
    else if (op = 0x02 ∨ op = 0x04) ∧ s.par.async = true ∨
        (op = 0x03 ∨ op = 0x05 ∨ op = 0x06) ∧ s.par.async = false ∨
        (op = 0x09 ∨ op = 0x0A ∨ op = 0x0B) ∧ s.par.quick = false ∨
        op = 0x0C ∧ s.par.cancel = false ∨
        (op = 0x0D ∨ op = 0x0E) ∧ s.par.loadOnStart = false then
      step s = .next { s with inputs := rest, fault := some .opNotConfigured }
    else (∀ i, encode s.par i ≠ .opd w) → step s = .next { s with inputs := rest, fault := some .operandReserved }

/-- A store of a size other than 1 or 4 is STAGE_WRITE_BYPASS, and a command word with another command code or with none of
the four function codes is CMD_RESERVED (30_encoding.md R94, R98). The model's readings: such a word writes no slot before it
faults, log 14, and a store of another size is STAGE_WRITE_BYPASS with READY = 0 too, before STAGE_OFFLINE, log 38. -/
def Obligations.IllegalStoresAndCommandsFault : Prop :=
  ∀ (s : State) (rest : List Input), s.callable →
    (∀ a data, s.inputs = .issue (.eeew a data) :: rest → data.length ≠ 1 → data.length ≠ 4 →
      step s = .next { s with inputs := rest, fault := some .stageWriteBypass }) ∧
    (∀ w : Word, s.inputs = .issue (.cmdw w) :: rest → s.inflight = .none →
      (w.extractLsb' 24 8 ≠ s.par.cmdSetfr ∨
        w.extractLsb' 16 8 ∉ [s.par.fcEee, s.par.fcQuick, s.par.fcQuery, s.par.fcComplete]) →
      step s = .next { s with inputs := rest, fault := some .cmdReserved })

/-! ## The step, faults and nesting -/

/-- A presented form that decodes is run: the step is `exec` of what it decodes to, with the input taken (30_encoding.md
R100, R103). -/
def Obligations.StepRunsDecoded : Prop :=
  ∀ (s : State) (w : IssueWord) (rest : List Input) (i : Instr), s.fault = none → s.inputs = .issue w :: rest →
    decode s.par w = .ok i → step s = exec i { s with inputs := rest }

/-- After a fault every operation is disabled and so is every step but a reset (60_exceptions.md R408). -/
def Obligations.FaultIsFinal : Prop :=
  ∀ (s : State) (r : Fault), s.fault = some r →
    (∀ i, exec i s = .fault r) ∧ ((∀ d rest, s.inputs ≠ .reset d :: rest) → step s = .fault r)

/-- While no fault is recorded every instruction answers a next state, whatever the state and its operands, and never
touches the parameters or the inputs (10_state.md R48). The configuration set, which R48 counts among the parameters, is the
caller's memory in the model: its choice, log 47. -/
def Obligations.EveryInstructionAnswers : Prop :=
  ∀ (i : Instr) (s : State), s.fault = none → ∃ t, exec i s = .next t ∧ t.par = s.par ∧ t.inputs = s.inputs

/-- An operation invoked while another runs is REENTRY (60_exceptions.md R413). So is a callback that invokes an operation,
touches the block or does not return, in the poll iteration that sees CC = 0 and calls it; where none is called there is no
such step (40_dispatch_polling.md R151). The model's readings: REENTRY comes before OP_NOT_CONFIGURED, log 17; it comes
before LAUNCH_WHILE_BUSY for a raw command word or page write, and the call that breaks its duty is counted, log 18. -/
def Obligations.NestedInvocationFaults : Prop :=
  ∀ (s : State), s.fault = none →
    (s.pos ≠ .idle → ∀ i, exec i s = .next { s with fault := some .reentry }) ∧
    (∀ how rest, s.inputs = .callbackBreaks how :: rest →
      if s.pos ≠ .idle ∧ s.inflight ≠ .none ∧ s.par.callback = true then
        step s = .next { s with inputs := rest, callbacks := s.callbacks + 1, fault := some .reentry }
      else step s = .next { s with inputs := rest })

/-! ## Reset -/

/-- A reset, at any step, a faulted one included (70_reset_and_hazards.md R450, R451; 10_state.md R39): every item of the
block takes its reset value or its draw; `fc.nv` keeps every byte that no page in flight and no quick-mode page interrupted;
`Stage` is `fc.nv` with READY = 1 and a draw with READY = 0; the RAM shadow is a draw. What is not named stays: that the
caller's memory and the outputs `det`, `dem`, `callbacks` and `loaded` do, and that `ret` is cleared, is the model's choice,
log 42; `crc.sr` with 16 drawn bits is log 23. -/
def Obligations.ResetEvent : Prop :=
  ∀ (s : State) (d : ResetDraw) (rest : List Input), Mem.wf s.nv → s.inputs = .reset d :: rest →
    ∃ t, step s = .next t ∧
      t = { s with
        coll := false, accerr := false, pviol := false, cstat := false, configRest := d.configRest
        cmdparam := d.cmdparam, stage := t.stage, mode := if d.ready then .normal else .offline, inflight := .none
        boLatch := d.boLatch, pend := d.pend, nv := t.nv, qdirty := [], dst := d.dst, src := d.src
        srckind := d.srckind, rem := d.rem, result := .idle, tmo := d.tmo, issued := false, initDone := false
        quick := false, boSeen := .code .none, routine := .none, shadow := t.shadow, fault := none
        crcSr := d.crc.setWidth 32, pos := .idle, ret := none, inputs := rest } ∧
      (∀ a, a ∉ s.qdirty → (∀ x n, s.inflight = .page x n → ¬ inRange a x.toNat n) →
        Mem.read t.nv a = Mem.read s.nv a) ∧
      (∀ a, (a ∈ s.qdirty ∨ ∃ x n, s.inflight = .page x n ∧ inRange a x.toNat n) →
        Mem.read t.nv a = Mem.read (Mem.ofCells d.interrupted []) a) ∧
      (d.ready = true → t.stage = t.nv) ∧
      (d.ready = false → ∀ a, a < s.par.eeeSize → Mem.read t.stage a = Mem.read (Mem.ofCells d.stage []) a) ∧
      (∀ a, a < s.par.shadowSize → Mem.read t.shadow a = Mem.read (Mem.ofCells d.shadow []) a)

/-- The values the spec gives for reset (70_reset_and_hazards.md R451) are those of the machine's reset state. -/
def Obligations.ResetValues : Prop :=
  State.reset.busy = false ∧ State.reset.inError = false ∧ State.reset.inflight = .none ∧ State.reset.qdirty = [] ∧
  State.reset.result = .idle ∧ State.reset.issued = false ∧ State.reset.initDone = false ∧ State.reset.quick = false ∧
  State.reset.boSeen = .code .none ∧ State.reset.routine = .none ∧ State.reset.fault = none ∧
  State.reset.mode = (if State.reset.ready then .normal else .offline)

/-- The invariant holds at reset. -/
def Obligations.ResetSatisfiesInvariant : Prop := State.reset.Inv

/-! ## Invariants and who may change what -/

/-- Every step keeps the invariant: the canonical form and the bounds of the four memories (10_state.md R33, R39, R44;
20_memory.md R60), a legal window in quick mode (40_dispatch_polling.md R141), a legal page or command in flight, the
dirty set empty outside quick mode, the CRC register below 2^16 (10_state.md R46), `seq.issued` only with a PENDING
transfer, the rest of a PENDING transfer and of a synchronous one that waits inside the staging buffer, `seq.init` UNINIT
while INIT waits, and the RAM shadow holding the routine `seq.routine` names. The model's choices: a reset keeps the caller's
memory, log 42, and R141's 16, 512 and 4 are the window's parameters, log 45. -/
def Obligations.StepKeepsInvariant : Prop :=
  ∀ s t : State, s.Inv → step s = .next t → t.Inv

/-- What only the controller holds changes only in its own step or at a reset: no operation, poll or CPU access changes the
mode, the non-volatile image, the dirty set, the pending work, the brown-out latch or CONFIG, and nothing at all changes
the parameters (00_scope.md R11, 10_state.md R29, R48, 40_dispatch_polling.md R146). The configuration set, which R48 counts
among them, is the caller's memory in the model: its choice, log 47. -/
def Obligations.ControllerStateIsItsOwn : Prop :=
  ∀ s t : State, step s = .next t → t.par = s.par ∧
    ((∀ d rest, s.inputs ≠ .fcComplete d :: rest) → (∀ d rest, s.inputs ≠ .reset d :: rest) →
      t.mode = s.mode ∧ t.nv = s.nv ∧ t.qdirty = s.qdirty ∧ t.pend = s.pend ∧ t.boLatch = s.boLatch ∧
        t.configRest = s.configRest)

/-- A byte of the caller's memory changes only under READ, inside its destination buffer (42_read_compare.md R200), or
under a store of the CPU from outside the block, inside the bytes stored. That a reset keeps it is the model's choice,
log 42. -/
def Obligations.OnlyReadWritesCallerMemory : Prop :=
  ∀ (s t : State) (b : Nat), step s = .next t → Mem.read t.mem b ≠ Mem.read s.mem b →
    (∃ w rest src dst len, s.inputs = .issue w :: rest ∧ decode s.par w = .ok (.read src dst len) ∧
      inRange b dst.toNat len.toNat) ∨
    (∃ addr data rest, s.inputs = .store addr data :: rest ∧ inRange b addr.toNat data.length)

/-- A staging byte changes only in the controller's step, at a reset, or under the page that is put in flight in this very
step, and such a page has one byte or four (20_memory.md R71, 40_dispatch_polling.md R130, R131, R145). -/
def Obligations.OnlyPagesWriteStaging : Prop :=
  ∀ (s t : State) (b : Nat), step s = .next t → Mem.read t.stage b ≠ Mem.read s.stage b →
    (∃ d rest, s.inputs = .fcComplete d :: rest) ∨ (∃ d rest, s.inputs = .reset d :: rest) ∨
    (∃ a n, s.inflight = .none ∧ t.inflight = .page a n ∧ (n = 1 ∨ n = 4) ∧ inRange b a.toNat n)

/-- The RAM shadow changes only under ROUTINE_LOAD, ROUTINE_UNLOAD and reset, the CRC register only under INIT, the CRC
operations and reset (10_state.md R44, R46; 45_crc16.md R300). -/
def Obligations.ShadowAndCrcWriters : Prop :=
  ∀ s t : State, step s = .next t → (∀ d rest, s.inputs ≠ .reset d :: rest) →
    (t.shadow ≠ s.shadow → ∃ w rest i, s.inputs = .issue w :: rest ∧ decode s.par w = .ok i ∧
      (i = .routineUnload ∨ ∃ k, i = .routineLoad k)) ∧
    (t.crcSr ≠ s.crcSr → ∃ w rest i, s.inputs = .issue w :: rest ∧ decode s.par w = .ok i ∧ beforeInit i = true)

/-! ## Input checks -/

/-- CHECK_JOB of READ, COMPARE, WRITE.S, WRITE.A, ERASE.S and ERASE.A (60_exceptions.md R402, R403, R404). The first check
that fails decides; a refusal emits its one event and changes nothing else; sums do not wrap; a request that passes every
check is not REJECTED. -/
def Obligations.InputCheckOrder : Prop :=
  ∀ (s : State) (i : Instr) (op : Byte) (a len : Word) (ptr : Option Word) (n : Option Nat),
    JobOf i a len ptr n → opcodeOf i = some op → s.callable → opPresent s.par op = true →
    if s.initDone = false then exec i s = .next (s.refusedWith op .uninit n)
    else if s.par.eeeSize ≤ a.toNat then exec i s = .next (s.refusedWith op .paramAddress n)
    else if len = 0#32 ∨ s.par.eeeSize < a.toNat + len.toNat then exec i s = .next (s.refusedWith op .paramLength n)
    else if ptr = some 0#32 then exec i s = .next (s.refusedWith op .paramPointer n)
    else
      (∀ q, ptr = some q → 2 ^ 32 < q.toNat + len.toNat → exec i s = .next (s.faultedWith .bufferWrap)) ∧
      (∀ q, ptr = some q → q.toNat + len.toNat ≤ 2 ^ 32 → s.bufferMeets q len →
        exec i s = .next (s.faultedWith .bufferOverlap)) ∧
      ((∀ q, ptr = some q → q.toNat + len.toNat ≤ 2 ^ 32 ∧ ¬ s.bufferMeets q len) →
        (s.result = .pending → exec i s = .next (s.refusedWith op .busy n)) ∧
        (s.result ≠ .pending → ∃ t, exec i s = .next t ∧ ∀ m, t.ret ≠ some ⟨.rejected, m⟩))

/-- Before INIT has returned OK, every OPD operation but INIT and the CRC operations returns REJECTED with E_UNINIT and
changes no other state (10_state.md R41, 60_exceptions.md R402; the spec draws it in 70_reset_and_hazards.md R454). -/
def Obligations.UninitializedIsRejected : Prop :=
  ∀ (s : State) (i : Instr) (op : Byte), opcodeOf i = some op → beforeInit i = false → s.callable →
    opPresent s.par op = true → s.initDone = false → ∃ n, exec i s = .next (s.refusedWith op .uninit n)

/-- The request is legal and the staging buffer is offline: READ, COMPARE and the writes and erases return FAILED at once,
and only the asynchronous ones record it in `seq.result` (41_write_paths.md R160, R170; 42_read_compare.md R200, R210). -/
def Obligations.OfflineTransferFails : Prop :=
  ∀ (s : State) (a q len : Word), s.callable → s.accepts a len → s.mode = .offline →
    (s.par.async = false →
      (s.bufferOk q len → exec (.writeS a q len) s = .next { s with ret := some ⟨.failed, some 0⟩ }) ∧
      exec (.eraseS a len) s = .next { s with ret := some ⟨.failed, some 0⟩ }) ∧
    (s.par.async = true →
      (s.bufferOk q len →
        exec (.writeA a q len) s = .next { s with ret := some ⟨.failed, some 0⟩, result := .failed }) ∧
      exec (.eraseA a len) s = .next { s with ret := some ⟨.failed, some 0⟩, result := .failed }) ∧
    (s.bufferOk q len →
      exec (.read a q len) s = .next { s with ret := some ⟨.failed, none⟩ } ∧
      exec (.compare a q len) s = .next { s with ret := some ⟨.failed, none⟩ })

/-! ## The CRC validator -/

/-- CRC_RESET: `crc.sr` becomes P_CRC_INIT, widened, and nothing else changes (45_crc16.md R301). -/
def Obligations.CrcResetLoadsInit : Prop :=
  ∀ s : State, s.callable → exec .crcReset s = .next { s with ret := none, crcSr := s.par.crcInit.setWidth 32 }

/-- CRC_FOLD8, CRC_FOLD16 and CRC_FINALIZE leave the remainder of the shifted register with the input (zeros for finalize)
divided by 0x11021 over GF(2), 16 bits wide, and change nothing else (45_crc16.md R302 to R305). -/
def Obligations.CrcFoldsAreRemainders : Prop :=
  ∀ (s : State) (b : Byte) (h : Half), s.callable → s.crcSr.toNat < 2 ^ 16 →
    (∃ q r, exec (.crcFold8 b) s = .next { s with ret := none, crcSr := r } ∧ r.toNat < 2 ^ 16 ∧
      s.crcSr <<< 8 ||| b.setWidth 32 = clmul 8 q 0x11021#32 ^^^ r) ∧
    (∃ q r, exec (.crcFold16 h) s = .next { s with ret := none, crcSr := r } ∧ r.toNat < 2 ^ 16 ∧
      s.crcSr <<< 16 ||| h.setWidth 32 = clmul 16 q 0x11021#32 ^^^ r) ∧
    (∃ q r, exec .crcFinalize s = .next { s with ret := none, crcSr := r } ∧ r.toNat < 2 ^ 16 ∧
      s.crcSr <<< 16 = clmul 16 q 0x11021#32 ^^^ r)

/-- A 16-bit fold is a fold of the high byte and then of the low byte: what 20_memory.md R64 derives from 45_crc16.md R302 and
R303. -/
def Obligations.CrcFold16IsTwoFolds : Prop :=
  ∀ (s : State) (h : Half), s.callable → s.crcSr.toNat < 2 ^ 16 →
    ∃ u, exec (.crcFold8 (h.extractLsb' 8 8)) s = .next u ∧
      exec (.crcFold8 (h.extractLsb' 0 8)) u = exec (.crcFold16 h) s

/-- On 16-bit values CRC_FINALIZE is a bijection with the two fixed points 0x0000 and 0xF01F: what 45_crc16.md R308 derives
from R305. -/
def Obligations.FinalizeFixedPoints : Prop :=
  ∀ s : State, s.callable →
    ∃ f : Half → Half,
      (∀ r : Half, exec .crcFinalize { s with crcSr := r.setWidth 32 } =
        .next { s with ret := none, crcSr := (f r).setWidth 32 }) ∧
      Function.Bijective f ∧ ∀ r, f r = r ↔ r = 0x0000#16 ∨ r = 0xF01F#16

/-- CRC_CHECK_CFG is CRC_RESET, the folds of the configuration's items in order and CRC_FINALIZE, with OK exactly when the
result is the stored checksum; a null `cfg` is OPERAND_RESERVED (45_crc16.md R310). Under the reference serialisation the
items are FOLDWORD of the five fields in their order (R312). Under the model's packed layout, a choice (log 25, log 29), the
fields and the stored checksum are the little-endian words that follow one another at `cfg`; a mode word other than SLOW's 0
and FAST's 1 is then folded as it stands, log 44. That the bytes are those in memory at the invocation, although R48 calls the
set unchanging, is log 47. -/
def Obligations.CheckCfgIsItsFolds : Prop :=
  ∀ (s : State) (cfg : Word), s.callable →
    (if cfg = 0#32 then exec (.crcCheckCfg cfg) s = .next (s.faultedWith .operandReserved)
    else ∃ u, runInstrs (.crcReset :: (s.cfgItems cfg).map itemInstr ++ [.crcFinalize]) s = some u ∧
      exec (.crcCheckCfg cfg) s =
        .next { s with
          crcSr := u.crcSr
          ret := some ⟨if u.crcSr.setWidth 16 = s.cfgStored cfg then .ok else .failed, none⟩ }) ∧
    (s.par.cfgSer = Config.referenceSer →
      s.cfgItems cfg =
        [CfgField.mode, .rdFast, .rdSlow, .wrFast, .wrSlow].flatMap fun f => itemsOfWord (s.cfgField cfg f)) ∧
    (s.par.cfgLayout = Config.packedLayout →
      (s.cfgField cfg .mode).toNat = littleEndianAt s.mem 4 cfg ∧
      (s.cfgField cfg .rdFast).toNat = littleEndianAt s.mem 4 (cfg + 4#32) ∧
      (s.cfgField cfg .rdSlow).toNat = littleEndianAt s.mem 4 (cfg + 8#32) ∧
      (s.cfgField cfg .wrFast).toNat = littleEndianAt s.mem 4 (cfg + 12#32) ∧
      (s.cfgField cfg .wrSlow).toNat = littleEndianAt s.mem 4 (cfg + 16#32) ∧
      (s.cfgStored cfg).toNat = littleEndianAt s.mem 2 (cfg + 20#32))

/-- With P_CRC_INIT = 0 the all-zero configuration gives 0x0000, whatever the layout and the serialisation, so long as zero
fields give zero items (the reading of "any serialisation" that R313's own reason needs, log 25), as the reference
serialisation does: what 45_crc16.md R313 derives from R302, R303 and R305. -/
def Obligations.ZeroConfigurationGivesZero : Prop :=
  ∀ (s : State) (cfg : Word), s.callable → cfg ≠ 0#32 → s.par.crcInit = 0#16 → (∀ f, s.cfgField cfg f = 0#32) →
    s.serKeepsZero ∨ s.par.cfgSer = Config.referenceSer →
    ∃ t, exec (.crcCheckCfg cfg) s = .next t ∧ t.crcSr = 0#32

/-- CRC_RESET, CRC_FOLD8 of the bytes of "123456789" and CRC_FINALIZE give 0x31C3 (45_crc16.md R306 (c)). -/
def Obligations.CrcKnownAnswer : Prop :=
  ∀ s : State, s.callable → s.par.crcInit = 0#16 →
    ∃ t, runInstrs [.crcReset, .crcFold8 0x31#8, .crcFold8 0x32#8, .crcFold8 0x33#8, .crcFold8 0x34#8, .crcFold8 0x35#8,
      .crcFold8 0x36#8, .crcFold8 0x37#8, .crcFold8 0x38#8, .crcFold8 0x39#8, .crcFinalize] s = some t ∧
      t.crcSr = 0x31C3#32

/-! ## INIT -/

/-- INIT's checks before any register access, in their order (43_init_brownout.md R230, R238); the last is 60_exceptions.md
R407: a wrong checksum gives FAILED with E_CFG_CRC and leaves `seq.init` UNINIT. -/
def Obligations.InitRefusals : Prop :=
  ∀ (s : State) (cfg : Word), s.callable →
    if cfg = 0#32 then exec (.init cfg) s = .next (s.refusedWith 0x01#8 .paramConfig none)
    else if s.par.timeout = some 0#32 then exec (.init cfg) s = .next (s.faultedWith .configTimeoutZero)
    else if s.quick = true ∨ s.result = .pending then exec (.init cfg) s = .next (s.faultedWith .initWhileActive)
    else (crcOfItems s.par.crcInit (s.cfgItems cfg)).setWidth 16 ≠ s.cfgStored cfg →
      exec (.init cfg) s =
        .next { s with
          crcSr := crcOfItems s.par.crcInit (s.cfgItems cfg)
          initDone := false
          det := s.detWith 0x01#8 .cfgCrc
          ret := some ⟨.failed, none⟩ }

/-- INIT of a valid configuration with CC = 1: the first command is in flight and INIT waits for it: SET_EEE where
READY = 0, else QUERY (43_init_brownout.md R230, R231). With CC = 0 it is LAUNCH_WHILE_BUSY (R239); what the faulted state
holds beside `seq.fault` is the model's reading, log 37. -/
def Obligations.InitLaunchesItsFirstCommand : Prop :=
  ∀ (s : State) (cfg : Word), s.callable → s.par.wf = true → cfg ≠ 0#32 → s.par.timeout ≠ some 0#32 → s.quick = false →
    s.result ≠ .pending → (crcOfItems s.par.crcInit (s.cfgItems cfg)).setWidth 16 = s.cfgStored cfg →
    if s.inflight ≠ .none then
      exec (.init cfg) s =
        .next { s with
          ret := none, crcSr := crcOfItems s.par.crcInit (s.cfgItems cfg), initDone := false
          fault := some .launchWhileBusy }
    else if s.mode = .offline then
      exec (.init cfg) s =
        .next { s with
          ret := none, crcSr := crcOfItems s.par.crcInit (s.cfgItems cfg), initDone := false
          coll := false, accerr := false, pviol := false, cstat := false
          cmdparam := s.slotsFor s.par.fcEee 0#16, inflight := .cmd .setEee (s.lenFor .setEee 0#16)
          tmo := s.par.timeout.getD s.tmo, pos := .waiting 0x01#8 .initOnline }
    else
      exec (.init cfg) s =
        .next { s with
          ret := none, crcSr := crcOfItems s.par.crcInit (s.cfgItems cfg), initDone := false
          coll := false, accerr := false, pviol := false, cstat := false
          cmdparam := s.slotsFor s.par.fcQuery 0#16, inflight := .cmd .query (s.lenFor .query 0#16)
          tmo := s.par.timeout.getD s.tmo, pos := .waiting 0x01#8 .initQuery }

/-- The outcome table of INIT (43_init_brownout.md R241, R242) as a run: every command completes without error before it is
polled. SET_EEE only where READY = 0; COMPLETE and the second QUERY exactly where the latched code is not NONE or work is
pending; OK exactly where no maintenance was needed or COMPLETE left no work, else NOT_READY with `seq.init` UNINIT. The
whole state after it is given; CMDPARAM holds the last QUERY's results. That `seq.tmo` then holds the loaded budget, with
NOT_READY too, although R235 calls the transfer registers unchanged, is the model's choice, log 40; so is `seq.bo_seen` after
NOT_READY, where R43 speaks of a successful INIT, log 46. -/
def Obligations.InitRecoversFromBrownOut : Prop :=
  ∀ (s : State) (cfg : Word) (dEee dQuery dMaint dAgain : FcDraw) (rest : List Input),
    s.callable → s.par.wf = true → cfg ≠ 0#32 → s.par.timeout ≠ some 0#32 → s.quick = false → s.result ≠ .pending →
    (crcOfItems s.par.crcInit (s.cfgItems cfg)).setWidth 16 = s.cfgStored cfg → s.inflight = .none →
    dEee.clean = true → dQuery.clean = true → dMaint.clean = true → dAgain.clean = true →
    let maint : Bool := s.boLatch != .none || s.pend != 0
    let good : Bool := !maint || dMaint.pend == 0
    let events : List Input :=
      (if s.ready then [] else [.fcComplete dEee, .seqStep]) ++ [.fcComplete dQuery, .seqStep] ++
        (if maint then [.fcComplete dMaint, .seqStep, .fcComplete dAgain, .seqStep] else [])
    s.inputs = events ++ rest →
    ∃ u t, exec (.init cfg) s = .next u ∧ Sys2Proof.core.run events.length u = .next t ∧
      t = { s with
        coll := false, accerr := false, pviol := false, cstat := false
        cmdparam := t.cmdparam
        mode := if s.ready then s.mode else .normal
        stage := if s.ready then s.stage else s.nv
        pend := if maint then dMaint.pend else s.pend
        boSeen := .code s.boLatch
        initDone := good
        result := if good then .idle else s.result
        issued := if good then false else s.issued
        tmo := s.par.timeout.getD s.tmo
        crcSr := crcOfItems s.par.crcInit (s.cfgItems cfg)
        dem := if s.par.dem then
            s.dem ++ [⟨.boMaint, s.boLatch == .maint⟩, ⟨.boQuick, s.boLatch == .quick⟩,
              ⟨.boNormal, s.boLatch == .normal⟩, ⟨.boUnknown, false⟩]
          else s.dem
        ret := some ⟨if good then .ok else .notReady, none⟩
        inputs := rest } ∧
      t.cmdparam[s.par.slotBo] = boValue s.par s.boLatch ∧
      ((∀ k ∈ s.par.slotPend, t.cmdparam[k] = 0#8) ↔ t.pend = 0)

/-- A command of INIT that fails ends it with NOT_READY and leaves `seq.init`, `seq.bo_seen` and the transfer registers but
`seq.tmo` as they are; a timeout adds its event (43_init_brownout.md R230, R235; 40_dispatch_polling.md R139), under INIT's OP
as the model reads it, log 19. That INIT's waits count `seq.tmo` down (R136) although R235 calls the transfer registers
unchanged is the model's choice, log 40; that a budget already at 0 has run out is log 41; that `seq.bo_seen` keeps what this
INIT's I4 set, where R43 speaks of a successful INIT, is log 46. -/
def Obligations.InitCommandFailure : Prop :=
  ∀ (s : State) (w : WaitPoint) (rest : List Input), s.fault = none → s.pos = .waiting 0x01#8 w →
    w ∈ [WaitPoint.initOnline, .initQuery, .initMaint, .initRecheck] → s.inputs = .seqStep :: rest →
    (s.inflight = .none → s.inError = true →
      step s = .next { s with inputs := rest, pos := .idle, ret := some ⟨.notReady, none⟩ }) ∧
    (s.inflight ≠ .none → s.par.timeout ≠ none → s.tmo.toNat ≤ 1 →
      step s = .next { s with
        inputs := rest, pos := .idle, ret := some ⟨.notReady, none⟩, tmo := 0#32, det := s.detWith 0x01#8 .timeout
        callbacks := if s.par.callback then s.callbacks + 1 else s.callbacks })

/-! ## Commands -/

/-- DISPATCH of the four commands: refused while busy, reserved codes, an illegal SET_QUICK; else the flags are cleared, the
slots written, the command launched, and DISPATCH waits with its budget loaded (40_dispatch_polling.md R122, R126 to R129,
R136, R141). The model's choices: the flags cleared and the slots written before a fault stay so, log 37, and R141's 16, 512
and 4 are the window's parameters, log 45. -/
def Obligations.DispatchLaunches : Prop :=
  ∀ (s : State) (fcode : Byte) (len : Half), s.callable → s.par.wf = true → s.initDone = true →
    (s.inflight ≠ .none → exec (.dispatch fcode len) s = .next (s.faultedWith .launchWhileBusy)) ∧
    (s.inflight = .none → fcode ∉ [s.par.fcEee, s.par.fcQuick, s.par.fcQuery, s.par.fcComplete] →
      exec (.dispatch fcode len) s =
        .next { s with
          ret := none, coll := false, accerr := false, pviol := false, cmdparam := s.slotsFor fcode len
          fault := some .cmdReserved }) ∧
    (∀ c : Command, s.inflight = .none → fcode = c.code s.par →
      (s.commandLegal c len →
        exec (.dispatch fcode len) s =
          .next { s with
            ret := none, coll := false, accerr := false, pviol := false, cstat := false
            cmdparam := s.slotsFor fcode len, inflight := .cmd c (s.lenFor c len)
            tmo := s.par.timeout.getD s.tmo, pos := .waiting 0x0F#8 .dispatched }) ∧
      (¬ s.commandLegal c len →
        exec (.dispatch fcode len) s =
          .next { s with
            ret := none, coll := false, accerr := false, pviol := false, cmdparam := s.slotsFor fcode len
            fault := some .cmdIllegalMode }))

/-- SET_EEE, SET_QUICK, QUERY and COMPLETE launched by themselves, with no clear before them: LAUNCH_WHILE_BUSY with CC = 0,
LAUNCH_WITH_ERROR with ACCERR or PVIOL set, CMD_ILLEGAL_MODE for an illegal SET_QUICK, else the command is in flight
(40_dispatch_polling.md R128, R140 to R142, R144; 70_reset_and_hazards.md R467). The model's readings: no clear before the
launch and CC checked before the slots are written, log 14; SET_QUICK's legality last, log 15; the slots written before a
fault stay so, log 37; R141's 16, 512 and 4 are the window's parameters, log 45. -/
def Obligations.CommandWordsLaunch : Prop :=
  ∀ (s : State) (c : Command) (len : Half), s.callable → s.par.wf = true →
    if s.inflight ≠ .none then exec (commandInstr len c) s = .next { s with fault := some .launchWhileBusy }
    else if s.accerr = true ∨ s.pviol = true then
      exec (commandInstr len c) s =
        .next { s with cmdparam := s.slotsFor (c.code s.par) len, fault := some .launchWithError }
    else (s.commandLegal c len →
        exec (commandInstr len c) s =
          .next { s with
            cmdparam := s.slotsFor (c.code s.par) len, cstat := false, inflight := .cmd c (s.lenFor c len) }) ∧
      (¬ s.commandLegal c len →
        exec (commandInstr len c) s =
          .next { s with cmdparam := s.slotsFor (c.code s.par) len, fault := some .cmdIllegalMode })

/-- DISPATCH returns at the first poll that sees CC = 1: FAILED if any of the four flags is set, else OK; no flag, counter
or callback is touched (40_dispatch_polling.md R136, R138, R139). -/
def Obligations.DispatchReturnsByFlags : Prop :=
  ∀ (s : State) (op : Byte) (rest : List Input), s.fault = none → s.pos = .waiting op .dispatched →
    s.inputs = .seqStep :: rest → s.inflight = .none →
    step s = .next { s with
      inputs := rest, pos := .idle
      ret := some ⟨if s.coll ∨ s.accerr ∨ s.pviol ∨ s.cstat then .failed else .ok, none⟩ }

/-- FC_COMPLETE without error of each command (40_dispatch_polling.md R140 to R144, R146): SET_EEE loads `Stage` from
`fc.nv` when offline and commits the dirty bytes when in quick mode; SET_QUICK enters its mode; QUERY writes RES_BO and
RES_PEND, zero exactly with no pending work; COMPLETE draws the pending work. Nothing else changes. -/
def Obligations.CommandsComplete : Prop :=
  ∀ (s : State) (c : Command) (len : Half) (d : FcDraw) (rest : List Input), s.fault = none → s.par.wf = true →
    s.inputs = .fcComplete d :: rest → s.inflight = .cmd c len → d.clean = true →
    (c = .setEee → s.mode = .offline →
      step s = .next { s with inputs := rest, cstat := false, inflight := .none, mode := .normal, stage := s.nv }) ∧
    (c = .setEee → s.mode = .normal → step s = .next { s with inputs := rest, cstat := false, inflight := .none }) ∧
    (∀ w, c = .setEee → s.mode = .quick w → Mem.wf s.nv →
      ∃ t, step s = .next t ∧
        t = { s with inputs := rest, cstat := false, inflight := .none, mode := .normal, qdirty := [], nv := t.nv } ∧
        ∀ b, Mem.read t.nv b = if b ∈ s.qdirty then Mem.read s.stage b else Mem.read s.nv b) ∧
    (c = .setQuick → step s = .next { s with inputs := rest, cstat := false, inflight := .none, mode := .quick len }) ∧
    (c = .query →
      ∃ t, step s = .next t ∧ t = { s with inputs := rest, cstat := false, inflight := .none, cmdparam := t.cmdparam } ∧
        t.cmdparam[s.par.slotBo] = boValue s.par s.boLatch ∧
        ((∀ k ∈ s.par.slotPend, t.cmdparam[k] = 0#8) ↔ s.pend = 0) ∧
        ∀ k : Fin 12, k ≠ s.par.slotBo → k ∉ s.par.slotPend → t.cmdparam[k] = s.cmdparam[k]) ∧
    (c = .complete → step s = .next { s with inputs := rest, cstat := false, inflight := .none, pend := d.pend })

/-- FC_COMPLETE with an error sets the drawn flags and CC; a command has no other effect, but that QUERY's result slots take
any value; a page's bytes take the drawn values in `Stage` and `fc.nv` (two draws, a short one filled with zeros: log 21), every
other byte stays. With nothing in flight the controller does not step (40_dispatch_polling.md R142, R145, R146). -/
def Obligations.ErrorCompletions : Prop :=
  ∀ (s : State) (d : FcDraw) (rest : List Input), s.fault = none → s.inputs = .fcComplete d :: rest →
    (s.inflight = .none → step s = .next { s with inputs := rest }) ∧
    (∀ c len, s.inflight = .cmd c len → d.clean = false →
      ∃ t, step s = .next t ∧
        t = { s with
          inputs := rest, accerr := s.accerr || d.accerr, pviol := s.pviol || d.pviol, cstat := d.cstat
          inflight := .none, cmdparam := t.cmdparam } ∧
        ∀ k : Fin 12, (c = .query → k ≠ s.par.slotBo ∧ k ∉ s.par.slotPend) → t.cmdparam[k] = s.cmdparam[k]) ∧
    (∀ a n, s.inflight = .page a n → d.clean = false → Mem.wf s.stage → Mem.wf s.nv →
      ∃ t, step s = .next t ∧
        t = { s with
          inputs := rest, accerr := s.accerr || d.accerr, pviol := s.pviol || d.pviol, cstat := d.cstat
          inflight := .none, stage := t.stage, nv := t.nv } ∧
        ∀ b, (inRange b a.toNat n → Mem.read t.stage b = d.stageBytes.getD (b - a.toNat) 0#8 ∧
            Mem.read t.nv b = d.nvBytes.getD (b - a.toNat) 0#8) ∧
          (¬ inRange b a.toNat n → Mem.read t.stage b = Mem.read s.stage b ∧ Mem.read t.nv b = Mem.read s.nv b))

/-! ## Polling -/

/-- With a budget left of n polls and no completion, a wait goes on for n - 1 polls and expires at the n-th, whatever it
waits for: the callback is called n times, and the operation ends with its timeout outcome, `State.timeoutReturn`, and one
E_TIMEOUT; WAIT_READY also cancels a PENDING transfer (40_dispatch_polling.md R136, R139, R152; 41_write_paths.md R160;
43_init_brownout.md R235; 44_quick_writes_wait.md R272, R274, R280). The model's choices: a budget already at 0 expires at the
first poll, log 41; `seq.tmo` is then 0 after INIT's NOT_READY too, although R235 calls the transfer registers unchanged,
log 40; the event carries the invoked operation's OP, log 19. -/
def Obligations.WaitExpiresAfterItsBudget : Prop :=
  ∀ (s : State) (op : Byte) (w : WaitPoint) (rest : List Input), s.fault = none → s.pos = .waiting op w →
    s.inflight ≠ .none → s.par.timeout ≠ none →
    let n := max 1 s.tmo.toNat
    s.inputs = List.replicate n Input.seqStep ++ rest →
    (∀ k, k < n →
      Sys2Proof.core.run k s =
        .next { s with
          tmo := s.tmo - BitVec.ofNat 32 k, callbacks := s.callbacks + (if s.par.callback then k else 0)
          inputs := List.replicate (n - k) Input.seqStep ++ rest }) ∧
    Sys2Proof.core.run n s =
      .next { s with
        tmo := 0#32, callbacks := s.callbacks + (if s.par.callback then n else 0), inputs := rest
        pos := .idle, det := s.detWith op .timeout, ret := some (s.timeoutReturn w)
        issued := if w = .ready then false else s.issued
        result := if w = .ready ∧ s.result = .pending then .canceled else s.result }

/-- 40_dispatch_polling.md R147: with a budget of N polls every wait ends after N polls without a completion, whatever it
waits for; without a budget it never ends, and changes nothing but the callback's count. -/
def Obligations.WaitEndsOnlyByItsBudget : Prop :=
  ∀ (s : State) (op : Byte) (w : WaitPoint) (rest : List Input), s.fault = none → s.pos = .waiting op w →
    s.inflight ≠ .none →
    (∀ n : Word, s.par.timeout = some n → n ≠ 0#32 → s.tmo = n →
      s.inputs = List.replicate n.toNat Input.seqStep ++ rest →
      (∀ k < n.toNat, ∃ t, Sys2Proof.core.run k s = .next t ∧ t.pos = .waiting op w) ∧
      ∃ t, Sys2Proof.core.run n.toNat s = .next t ∧ t.pos = .idle ∧ t.inflight = s.inflight) ∧
    (∀ n : Nat, s.par.timeout = none → s.inputs = List.replicate n Input.seqStep ++ rest →
      Sys2Proof.core.run n s =
        .next { s with inputs := rest, callbacks := s.callbacks + (if s.par.callback then n else 0) })

/-! ## Page writes -/

/-- PAGE1 and PAGE4 that pass their checks (40_dispatch_polling.md R130, R131; 20_memory.md R62): the bytes are in `Stage`
at once, in address order, the page is in flight, the flags are clear, and nothing else changes. -/
def Obligations.PageWritesIssue : Prop :=
  ∀ (s : State) (a : Word) (b b1 b2 b3 : Byte), s.callable → Mem.wf s.stage → s.inflight = .none → s.mode ≠ .offline →
    s.routineMissing = false →
    (s.quickMode = false → a.toNat + 1 ≤ s.par.eeeSize →
      ∃ t, exec (.page1 a b) s = .next t ∧
        t = { s with
          coll := false, accerr := false, pviol := false, cstat := false, inflight := .page a 1, stage := t.stage } ∧
        ∀ x, Mem.read t.stage x = if x = a.toNat then b else Mem.read s.stage x) ∧
    (a.toNat % 4 = 0 → a.toNat + 4 ≤ s.par.eeeSize →
      ∃ t, exec (.page4 a b b1 b2 b3) s = .next t ∧
        t = { s with
          coll := false, accerr := false, pviol := false, cstat := false, inflight := .page a 4, stage := t.stage } ∧
        ∀ x, Mem.read t.stage x =
          if x = a.toNat then b else if x = a.toNat + 1 then b1 else if x = a.toNat + 2 then b2
          else if x = a.toNat + 3 then b3 else Mem.read s.stage x)

/-- PAGE_PRECHECK's faults in their order, for both page writes (40_dispatch_polling.md R134). That the routine a page issued by
itself needs is that of `seq.srckind` is the model's reading, log 35. -/
def Obligations.PagePrecheckOrder : Prop :=
  ∀ (s : State) (a : Word) (n : Nat) (i : Instr), s.callable →
    ((∃ b, i = .page1 a b) ∧ n = 1 ∨ (∃ b0 b1 b2 b3, i = .page4 a b0 b1 b2 b3) ∧ n = 4) →
    if s.inflight ≠ .none then exec i s = .next { s with fault := some .launchWhileBusy }
    else if s.mode = .offline then exec i s = .next { s with fault := some .stageOffline }
    else if s.par.eeeSize < a.toNat + n then exec i s = .next { s with fault := some .outOfRange }
    else if n = 4 ∧ a.toNat % 4 ≠ 0 then exec i s = .next { s with fault := some .pageUnaligned }
    else if s.quickMode = true ∧ n ≠ 4 then exec i s = .next { s with fault := some .quickUnaligned }
    else s.par.loadOnStart = true →
      s.routine ≠ (match s.srckind with | .buffer => Routine.write | .pattern => Routine.erase) →
      exec i s = .next { s with fault := some .noRoutine }

/-- An error-free page completion (40_dispatch_polling.md R148): in quick mode its addresses join `fc.qdirty`; else its bytes
go from `Stage` into `fc.nv`. -/
def Obligations.PagesComplete : Prop :=
  ∀ (s : State) (a : Word) (n : Nat) (d : FcDraw) (rest : List Input), s.fault = none → Mem.wf s.nv →
    s.inputs = .fcComplete d :: rest → s.inflight = .page a n → d.clean = true →
    if s.quickMode = true then
      ∃ t, step s = .next t ∧ t = { s with inputs := rest, cstat := false, inflight := .none, qdirty := t.qdirty } ∧
        ∀ x, x ∈ t.qdirty ↔ x ∈ s.qdirty ∨ inRange x a.toNat n
    else
      ∃ t, step s = .next t ∧ t = { s with inputs := rest, cstat := false, inflight := .none, nv := t.nv } ∧
        ∀ x, Mem.read t.nv x = if inRange x a.toNat n then Mem.read s.stage x else Mem.read s.nv x

/-! ## Synchronous and asynchronous transfers -/

/-- WRITE.S and ERASE.S of a legal request issue their first page and wait for it (41_write_paths.md R160, R180;
40_dispatch_polling.md R132, R133). An erase leaves `seq.src` open. -/
def Obligations.SyncTransferStarts : Prop :=
  ∀ (s : State) (dst src len : Word), s.callable → s.par.async = false → s.accepts dst len → Mem.wf s.stage →
    let n := firstPage dst len
    (s.bufferOk src len → s.pageLegal .write n →
      ∃ t, exec (.writeS dst src len) s = .next t ∧
        t = { s with
          ret := none, coll := false, accerr := false, pviol := false, cstat := false, inflight := .page dst n
          dst := dst, src := src, srckind := .buffer, rem := len, tmo := s.par.timeout.getD s.tmo
          pos := .waiting 0x02#8 (.page len), stage := t.stage } ∧
        ∀ b, Mem.read t.stage b =
          if inRange b dst.toNat n then Mem.read s.mem (src.toNat + (b - dst.toNat)) else Mem.read s.stage b) ∧
    (s.pageLegal .erase n →
      ∃ t, exec (.eraseS dst len) s = .next t ∧
        t = { s with
          ret := none, coll := false, accerr := false, pviol := false, cstat := false, inflight := .page dst n
          dst := dst, src := t.src, srckind := .pattern, rem := len, tmo := s.par.timeout.getD s.tmo
          pos := .waiting 0x04#8 (.page len), stage := t.stage } ∧
        ∀ b, Mem.read t.stage b = if inRange b dst.toNat n then s.par.erasedValue else Mem.read s.stage b)

/-- The round-trip half of 20_memory.md R71 with the page count of 41_write_paths.md R161: WRITE.S whose pages all complete
without error takes exactly that many pages, one in flight after the other while it waits, and then returns (OK, len);
`Stage` holds the buffer's bytes in the range, and so does `fc.nv`, or in quick mode, where every page is a word, the dirty
set gains the range and `fc.nv` stays (44_quick_writes_wait.md R273). The whole state after it is given. -/
def Obligations.SyncWriteLaw : Prop :=
  ∀ (s : State) (dst src len : Word) (d : FcDraw) (rest : List Input),
    s.callable → s.par.wf = true → s.par.async = false → s.accepts dst len → s.bufferOk src len → Mem.wf s.stage →
    Mem.wf s.nv → s.transferLegal .write dst len → d.clean = true →
    s.inputs = (List.replicate (pageCount dst len) [Input.fcComplete d, Input.seqStep]).flatten ++ rest →
    ∃ u t, exec (.writeS dst src len) s = .next u ∧ Sys2Proof.core.run (2 * pageCount dst len) u = .next t ∧
      (∀ k < 2 * pageCount dst len, ∃ v, Sys2Proof.core.run k u = .next v ∧ v.pos = .waiting 0x02#8 (.page len) ∧
        (v.inflight = .none ↔ k % 2 = 1)) ∧
      t = { s with
        coll := false, accerr := false, pviol := false, cstat := false, stage := t.stage, nv := t.nv
        qdirty := t.qdirty, dst := dst + len, src := src + len, srckind := .buffer, rem := 0#32
        tmo := s.par.timeout.getD s.tmo, ret := some ⟨.ok, some len.toNat⟩, inputs := rest } ∧
      s.holdsPages t dst.toNat len.toNat fun b => Mem.read s.mem (src.toNat + (b - dst.toNat))

/-- The erase law (41_write_paths.md R180, R182) with its page count (R161): ERASE.S whose pages all complete without error
waits for exactly that many pages and leaves P_ERASED_VALUE in every byte of the range, in `Stage` and `fc.nv`; in quick mode
in `Stage`, with the range dirty (40_dispatch_polling.md R148). ERASE.A's is AsyncTransferLaw. -/
def Obligations.SyncEraseLaw : Prop :=
  ∀ (s : State) (dst len : Word) (d : FcDraw) (rest : List Input),
    s.callable → s.par.wf = true → s.par.async = false → s.accepts dst len → Mem.wf s.stage → Mem.wf s.nv →
    s.transferLegal .erase dst len → d.clean = true →
    s.inputs = (List.replicate (pageCount dst len) [Input.fcComplete d, Input.seqStep]).flatten ++ rest →
    ∃ u t, exec (.eraseS dst len) s = .next u ∧ Sys2Proof.core.run (2 * pageCount dst len) u = .next t ∧
      (∀ k < 2 * pageCount dst len, ∃ v, Sys2Proof.core.run k u = .next v ∧ v.pos = .waiting 0x04#8 (.page len) ∧
        (v.inflight = .none ↔ k % 2 = 1)) ∧
      t = { s with
        coll := false, accerr := false, pviol := false, cstat := false, stage := t.stage, nv := t.nv
        qdirty := t.qdirty, dst := dst + len, src := t.src, srckind := .pattern, rem := 0#32
        tmo := s.par.timeout.getD s.tmo, ret := some ⟨.ok, some len.toNat⟩, inputs := rest } ∧
      s.holdsPages t dst.toNat len.toNat fun _ => s.par.erasedValue

/-- A synchronous transfer after a page's wait with CC = 1 (41_write_paths.md R160, R180): an error flag ends it at this page with
FAILED and the bytes completed before; after the last page it returns (OK, len) with the cursor past it; after any other the
next page is issued, its bytes those of the buffer or the erased value, and its wait begins with the budget reloaded. That an
erase, too, moves `seq.src`, which R180 calls unused, is the model's reading, log 28. -/
def Obligations.SyncPageOutcome : Prop :=
  ∀ (s : State) (op : Byte) (len : Word) (rest : List Input), s.fault = none → s.pos = .waiting op (.page len) →
    s.inputs = .seqStep :: rest → s.inflight = .none →
    if s.inError = true then
      step s = .next { s with inputs := rest, pos := .idle, ret := some ⟨.failed, some (len.toNat - s.rem.toNat)⟩ }
    else
      let n := firstPage s.dst s.rem
      let dst := s.dst + BitVec.ofNat 32 n
      let src := s.src + BitVec.ofNat 32 n
      let rem := s.rem - BitVec.ofNat 32 n
      if rem = 0#32 then
        step s = .next { s with
          inputs := rest, pos := .idle, ret := some ⟨.ok, some len.toNat⟩, rem := 0#32, dst := dst, src := src }
      else s.dst.toNat + s.rem.toNat ≤ s.par.eeeSize → 0 < s.rem.toNat → Mem.wf s.stage →
        s.pageLegal (match s.srckind with | .buffer => .write | .pattern => .erase) (firstPage dst rem) →
        ∃ t, step s = .next t ∧
          t = { s with
            inputs := rest, coll := false, accerr := false, pviol := false, cstat := false, dst := dst, src := src
            rem := rem, inflight := .page dst (firstPage dst rem), tmo := s.par.timeout.getD s.tmo, stage := t.stage } ∧
          ∀ b, Mem.read t.stage b =
            if inRange b dst.toNat (firstPage dst rem) then
              (match s.srckind with
                | .buffer => Mem.read s.mem (src.toNat + (b - dst.toNat))
                | .pattern => s.par.erasedValue)
            else Mem.read s.stage b

/-- WRITE.A and ERASE.A of a legal request make the transfer PENDING (41_write_paths.md R170, R172, R181). With CC = 1 they
issue one page and return WRITE_REQUESTED with its size. With CC = 0 they issue nothing: one poll of the budget just loaded
gives (WRITE_REQUESTED, 0), or (FAILED, 0) with E_TIMEOUT where the budget was one poll (or none: log 41). An erase leaves
`seq.src` open. -/
def Obligations.AsyncTransferStarts : Prop :=
  ∀ (s : State) (dst src len : Word), s.callable → s.par.async = true → s.accepts dst len → Mem.wf s.stage →
    let n := firstPage dst len
    (s.bufferOk src len → s.pageLegal .write n →
      ∃ t, exec (.writeA dst src len) s = .next t ∧
        t = { s with
          coll := false, accerr := false, pviol := false, cstat := false, inflight := .page dst n
          dst := dst + BitVec.ofNat 32 n, src := src + BitVec.ofNat 32 n, srckind := .buffer
          rem := len - BitVec.ofNat 32 n, result := .pending, issued := true, tmo := s.par.timeout.getD s.tmo
          ret := some ⟨.writeRequested, some n⟩, stage := t.stage } ∧
        ∀ b, Mem.read t.stage b =
          if inRange b dst.toNat n then Mem.read s.mem (src.toNat + (b - dst.toNat)) else Mem.read s.stage b) ∧
    (s.pageLegal .erase n →
      ∃ t, exec (.eraseA dst len) s = .next t ∧
        t = { s with
          coll := false, accerr := false, pviol := false, cstat := false, inflight := .page dst n
          dst := dst + BitVec.ofNat 32 n, src := t.src, srckind := .pattern
          rem := len - BitVec.ofNat 32 n, result := .pending, issued := true, tmo := s.par.timeout.getD s.tmo
          ret := some ⟨.writeRequested, some n⟩, stage := t.stage } ∧
        ∀ b, Mem.read t.stage b = if inRange b dst.toNat n then s.par.erasedValue else Mem.read s.stage b) ∧
    (s.inflight ≠ .none → s.mode ≠ .offline →
      let expired := s.par.timeout = some 0#32 ∨ s.par.timeout = some 1#32
      let polled (op : Byte) : State := { s with
        dst := dst, rem := len, issued := false, result := if expired then .failed else .pending
        tmo := if expired then 0#32 else (s.par.timeout.map fun b => b - 1#32).getD s.tmo
        det := if expired then s.detWith op .timeout else s.det
        ret := some ⟨if expired then .failed else .writeRequested, some 0⟩ }
      (s.bufferOk src len → exec (.writeA dst src len) s = .next { polled 0x03#8 with src := src, srckind := .buffer }) ∧
      ∃ t, exec (.eraseA dst len) s = .next t ∧ t = { polled 0x05#8 with src := t.src, srckind := .pattern })

/-- POLL (41_write_paths.md R171, R172): a terminal result is repeated and nothing else changes; IDLE is REJECTED; a PENDING
transfer polls while CC = 0 and fails when the budget runs out, fails on the last page's error flag, returns OK once
nothing is left, and else issues the next page. That a budget already at 0 has run out is the model's choice, log 41; that an
erase's page moves `seq.src` is its reading, log 28. -/
def Obligations.PollOutcomes : Prop :=
  ∀ s : State, s.callable → s.par.async = true → s.initDone = true →
    (s.result = .ok → exec .poll s = .next { s with ret := some ⟨.ok, some 0⟩ }) ∧
    (s.result = .failed → exec .poll s = .next { s with ret := some ⟨.failed, some 0⟩ }) ∧
    (s.result = .canceled → exec .poll s = .next { s with ret := some ⟨.canceled, some 0⟩ }) ∧
    (s.result = .idle → exec .poll s = .next { s with ret := some ⟨.rejected, some 0⟩ }) ∧
    (s.result = .pending →
      if s.inflight ≠ .none then
        if s.par.timeout = none then exec .poll s = .next { s with ret := some ⟨.writeRequested, some 0⟩ }
        else if s.tmo.toNat ≤ 1 then
          exec .poll s =
            .next { s with
              tmo := 0#32, result := .failed, issued := false, det := s.detWith 0x06#8 .timeout
              ret := some ⟨.failed, some 0⟩ }
        else exec .poll s = .next { s with tmo := s.tmo - 1#32, ret := some ⟨.writeRequested, some 0⟩ }
      else if s.issued = true ∧ s.inError = true then
        exec .poll s = .next { s with result := .failed, issued := false, ret := some ⟨.failed, some 0⟩ }
      else if s.rem = 0#32 then
        exec .poll s = .next { s with result := .ok, issued := false, ret := some ⟨.ok, some 0⟩ }
      else Mem.wf s.stage → s.dst.toNat + s.rem.toNat ≤ s.par.eeeSize → ∀ n, n = firstPage s.dst s.rem →
        s.pageLegal (match s.srckind with | .buffer => .write | .pattern => .erase) n →
        ∃ t, exec .poll s = .next t ∧
          t = { s with
            coll := false, accerr := false, pviol := false, cstat := false, inflight := .page s.dst n
            dst := s.dst + BitVec.ofNat 32 n, src := s.src + BitVec.ofNat 32 n, rem := s.rem - BitVec.ofNat 32 n
            issued := true, tmo := s.par.timeout.getD s.tmo, ret := some ⟨.writeRequested, some n⟩
            stage := t.stage } ∧
          ∀ b, Mem.read t.stage b =
            if inRange b s.dst.toNat n then
              (match s.srckind with
                | .buffer => Mem.read s.mem (s.src.toNat + (b - s.dst.toNat))
                | .pattern => s.par.erasedValue)
            else Mem.read s.stage b)

/-- One invocation of the asynchronous path returns in its own step and moves at most four bytes, those at its cursor
(41_write_paths.md R173). -/
def Obligations.AsyncWorkIsBounded : Prop :=
  ∀ (s t : State) (i : Instr) (cursor : Word), s.callable →
    ((∃ src len, i = .writeA cursor src len) ∨ (∃ len, i = .eraseA cursor len) ∨ i = .poll ∧ cursor = s.dst) →
    exec i s = .next t →
    t.pos = .idle ∧ ∀ b, ¬ inRange b cursor.toNat 4 → Mem.read t.stage b = Mem.read s.stage b

/-- WRITE.A and ERASE.A whose pages all complete without error before the next POLL take one invocation per page and one
more, each page in flight in its turn and the transfer PENDING until the last POLL, which gives (OK, 0); where the bytes are
then is as for WRITE.S and ERASE.S, in quick mode too (41_write_paths.md R161, R170 to R174, R181, R182; 20_memory.md R71;
44_quick_writes_wait.md R273). -/
def Obligations.AsyncTransferLaw : Prop :=
  ∀ (s : State) (dst src len : Word) (d : FcDraw) (rest : List Input),
    s.callable → s.par.wf = true → s.par.async = true → s.accepts dst len → Mem.wf s.stage → Mem.wf s.nv →
    d.clean = true →
    s.inputs =
      (List.replicate (pageCount dst len) [Input.fcComplete d, Input.issue (encode s.par .poll)]).flatten ++ rest →
    let done (t : State) (k : SrcKind) : State := { s with
      coll := false, accerr := false, pviol := false, cstat := false, stage := t.stage, nv := t.nv, qdirty := t.qdirty
      dst := dst + len, src := t.src, srckind := k, rem := 0#32, tmo := s.par.timeout.getD s.tmo
      result := .ok, issued := false, ret := some ⟨.ok, some 0⟩, inputs := rest }
    (s.bufferOk src len → s.transferLegal .write dst len →
      ∃ u t, exec (.writeA dst src len) s = .next u ∧ Sys2Proof.core.run (2 * pageCount dst len) u = .next t ∧
        (∀ k < 2 * pageCount dst len, ∃ v, Sys2Proof.core.run k u = .next v ∧ v.result = .pending ∧
          (v.inflight = .none ↔ k % 2 = 1)) ∧
        t = done t .buffer ∧ t.src = src + len ∧
        s.holdsPages t dst.toNat len.toNat fun b => Mem.read s.mem (src.toNat + (b - dst.toNat))) ∧
    (s.transferLegal .erase dst len →
      ∃ u t, exec (.eraseA dst len) s = .next u ∧ Sys2Proof.core.run (2 * pageCount dst len) u = .next t ∧
        (∀ k < 2 * pageCount dst len, ∃ v, Sys2Proof.core.run k u = .next v ∧ v.result = .pending ∧
          (v.inflight = .none ↔ k % 2 = 1)) ∧
        t = done t .pattern ∧ s.holdsPages t dst.toNat len.toNat fun _ => s.par.erasedValue)

/-! ## READ and COMPARE -/

/-- READ of a legal request (42_read_compare.md R200): READ_WHILE_BUSY and READ_IN_QUICK; else every byte of the buffer is
the staging byte, every other byte of memory and every other piece of state is unchanged, and it returns OK. -/
def Obligations.ReadCopiesTheRange : Prop :=
  ∀ (s : State) (src dst len : Word), s.callable → s.accepts src len → s.bufferOk dst len → s.mode ≠ .offline →
    if s.inflight ≠ .none then exec (.read src dst len) s = .next (s.faultedWith .readWhileBusy)
    else if s.quick = true then exec (.read src dst len) s = .next (s.faultedWith .readInQuick)
    else Mem.wf s.mem →
      ∃ t, exec (.read src dst len) s = .next t ∧ t = { s with mem := t.mem, ret := some ⟨.ok, none⟩ } ∧
        ∀ b, Mem.read t.mem b =
          if inRange b dst.toNat len.toNat then Mem.read s.stage (src.toNat + (b - dst.toNat)) else Mem.read s.mem b

/-- COMPARE of a legal request (60_exceptions.md R406, 42_read_compare.md R210): (OK, len) where every byte agrees, else
INCONSISTENT with the least index where they differ; it writes nothing. -/
def Obligations.CompareFindsTheFirstDifference : Prop :=
  ∀ (s : State) (src buf len : Word), s.callable → s.accepts src len → s.bufferOk buf len → s.mode ≠ .offline →
    (s.inflight ≠ .none → exec (.compare src buf len) s = .next (s.faultedWith .readWhileBusy)) ∧
    (s.inflight = .none → s.quick = true → exec (.compare src buf len) s = .next (s.faultedWith .readInQuick)) ∧
    (s.inflight = .none → s.quick = false →
      ((∀ i < len.toNat, Mem.read s.stage (src.toNat + i) = Mem.read s.mem (buf.toNat + i)) →
        exec (.compare src buf len) s = .next { s with ret := some ⟨.ok, some len.toNat⟩ }) ∧
      (∀ j < len.toNat, Mem.read s.stage (src.toNat + j) ≠ Mem.read s.mem (buf.toNat + j) →
        (∀ i < j, Mem.read s.stage (src.toNat + i) = Mem.read s.mem (buf.toNat + i)) →
        exec (.compare src buf len) s = .next { s with ret := some ⟨.inconsistent, some j⟩ }))

/-! ## Quick writes, WAIT_READY, the access routine -/

/-- QUICK_CHECK (44_quick_writes_wait.md R270, R271): the first failing check alone is reported, and a request that passes
all four returns OK; no other state changes. -/
def Obligations.QuickCheckOrder : Prop :=
  ∀ (s : State) (dst src len : Word) (w : Half), s.callable → s.par.quick = true → s.initDone = true →
    if w.toNat < s.par.qwMin ∨ s.par.qwMax < w.toNat ∨ w.toNat % s.par.qwStep ≠ 0 then
      exec (.quickCheck dst src len w) s = .next (s.refusedWith 0x09#8 .paramQuick none)
    else if dst.toNat % 4 ≠ 0 then exec (.quickCheck dst src len w) s = .next (s.refusedWith 0x09#8 .paramAddress none)
    else if src.toNat % 4 ≠ 0 then exec (.quickCheck dst src len w) s = .next (s.refusedWith 0x09#8 .paramPointer none)
    else if len.toNat % w.toNat ≠ 0 then
      exec (.quickCheck dst src len w) s = .next (s.refusedWith 0x09#8 .paramLength none)
    else exec (.quickCheck dst src len w) s = .next { s with ret := some ⟨.ok, none⟩ }

/-- QUICK_ENTER (44_quick_writes_wait.md R272): its checks, then SET_QUICK with the window in LEN is in flight. The model's
readings: the window check is R270's, which takes 20 where vector V-QK-15 refuses it, log 39; the controller's check of R141 has
the same bounds, log 45; the flags cleared and slots written before CMD_ILLEGAL_MODE stay so, log 37. -/
def Obligations.QuickEnterLaunches : Prop :=
  ∀ (s : State) (w : Half), s.callable → s.par.wf = true → s.par.quick = true → s.initDone = true →
    if w.toNat < s.par.qwMin ∨ s.par.qwMax < w.toNat ∨ w.toNat % s.par.qwStep ≠ 0 then
      exec (.quickEnter w) s = .next (s.refusedWith 0x0A#8 .paramQuick none)
    else if s.quick = true then exec (.quickEnter w) s = .next (s.refusedWith 0x0A#8 .busy none)
    else if s.inflight ≠ .none then exec (.quickEnter w) s = .next (s.faultedWith .launchWhileBusy)
    else if s.mode ≠ .normal then
      exec (.quickEnter w) s =
        .next { s with
          ret := none, coll := false, accerr := false, pviol := false, cmdparam := s.slotsFor s.par.fcQuick w
          fault := some .cmdIllegalMode }
    else
      exec (.quickEnter w) s =
        .next { s with
          ret := none, coll := false, accerr := false, pviol := false, cstat := false
          cmdparam := s.slotsFor s.par.fcQuick w, inflight := .cmd .setQuick w
          tmo := s.par.timeout.getD s.tmo, pos := .waiting 0x0A#8 .quickEnter }

/-- How QUICK_ENTER ends (44_quick_writes_wait.md R272): OK with `seq.quick` set; after a failed SET_QUICK the fallback
SET_EEE is launched, and gives FELL_BACK or FAILED; a timed-out SET_QUICK, with no fallback, and a timed-out fallback give
FAILED. The timeout's event is under QUICK_ENTER's OP as the model reads it, log 19; a budget already at 0 has run out,
log 41. -/
def Obligations.QuickEnterOutcomes : Prop :=
  ∀ (s : State) (rest : List Input), s.fault = none → s.par.wf = true → s.inputs = .seqStep :: rest →
    (s.pos = .waiting 0x0A#8 .quickEnter → s.inflight = .none →
      if s.inError = false then
        step s = .next { s with inputs := rest, pos := .idle, quick := true, ret := some ⟨.ok, none⟩ }
      else step s = .next { s with
        inputs := rest, coll := false, accerr := false, pviol := false, cstat := false
        cmdparam := s.slotsFor s.par.fcEee 0#16, inflight := .cmd .setEee (s.lenFor .setEee 0#16)
        tmo := s.par.timeout.getD s.tmo, pos := .waiting 0x0A#8 .quickFallback }) ∧
    (s.pos = .waiting 0x0A#8 .quickEnter ∨ s.pos = .waiting 0x0A#8 .quickFallback → s.inflight ≠ .none →
      s.par.timeout ≠ none → s.tmo.toNat ≤ 1 →
      step s = .next { s with
        inputs := rest, pos := .idle, ret := some ⟨.failed, none⟩, tmo := 0#32, det := s.detWith 0x0A#8 .timeout
        callbacks := if s.par.callback then s.callbacks + 1 else s.callbacks }) ∧
    (s.pos = .waiting 0x0A#8 .quickFallback → s.inflight = .none →
      step s = .next { s with
        inputs := rest, pos := .idle, ret := some ⟨if s.inError then .failed else .fellBack, none⟩ })

/-- QUICK_EXIT (44_quick_writes_wait.md R274; 40_dispatch_polling.md R140), in every mode: with CC = 0 it is
LAUNCH_WHILE_BUSY, else it launches SET_EEE. A SET_EEE that ends with an error flag, or runs out of its budget (E_TIMEOUT),
gives FAILED and leaves `seq.quick`. Once one has completed without error and been polled, the mode is NORMAL, `seq.quick` is
false and OK is returned; from quick mode the dirty bytes are then in `fc.nv`, from OFFLINE `Stage` is `fc.nv`, and from
NORMAL mode neither changes. The model's readings: the timeout's event is under QUICK_EXIT's OP, log 19, and a budget already
at 0 has run out, log 41. -/
def Obligations.QuickExitCommits : Prop :=
  ∀ (s : State) (rest : List Input), s.fault = none → s.par.wf = true →
    (s.pos = .idle → s.par.quick = true → s.initDone = true →
      let launched : State := { s with
        ret := none, coll := false, accerr := false, pviol := false, cstat := false
        cmdparam := s.slotsFor s.par.fcEee 0#16, inflight := .cmd .setEee (s.lenFor .setEee 0#16)
        tmo := s.par.timeout.getD s.tmo, pos := .waiting 0x0B#8 .quickExit }
      (s.inflight ≠ .none → exec .quickExit s = .next (s.faultedWith .launchWhileBusy)) ∧
      (s.inflight = .none →
        exec .quickExit s = .next launched ∧
        ∀ d : FcDraw, d.clean = true → Mem.wf s.nv → s.inputs = [Input.fcComplete d, Input.seqStep] ++ rest →
          ∃ t, Sys2Proof.core.run 2 launched = .next t ∧
            t = { s with
              coll := false, accerr := false, pviol := false, cstat := false, cmdparam := s.slotsFor s.par.fcEee 0#16
              tmo := s.par.timeout.getD s.tmo, mode := .normal
              stage := if s.mode = .offline then s.nv else s.stage
              qdirty := if s.quickMode then [] else s.qdirty, nv := t.nv, quick := false
              ret := some ⟨.ok, none⟩, inputs := rest } ∧
            ∀ b, Mem.read t.nv b =
              if s.quickMode = true ∧ b ∈ s.qdirty then Mem.read s.stage b else Mem.read s.nv b)) ∧
    (s.pos = .waiting 0x0B#8 .quickExit → s.inputs = .seqStep :: rest →
      (s.inflight = .none →
        step s = .next { s with
          inputs := rest, pos := .idle, quick := s.quick && s.inError
          ret := some ⟨if s.inError then .failed else .ok, none⟩ }) ∧
      (s.inflight ≠ .none → s.par.timeout ≠ none → s.tmo.toNat ≤ 1 →
        step s = .next { s with
          inputs := rest, pos := .idle, ret := some ⟨.failed, none⟩, tmo := 0#32, det := s.detWith 0x0B#8 .timeout
          callbacks := if s.par.callback then s.callbacks + 1 else s.callbacks }))

/-- WAIT_READY (44_quick_writes_wait.md R280, R281): refused in quick mode; else it waits and issues nothing. At the poll
that sees CC = 1, at once or after the page or command in flight has completed, it ends with OK whatever the flags, and a
PENDING transfer is CANCELED. -/
def Obligations.WaitReadyCancels : Prop :=
  ∀ (s : State), s.fault = none →
    (s.pos = .idle → s.par.cancel = true → s.initDone = true →
      if s.quick = true then exec .waitReady s = .next (s.refusedWith 0x0C#8 .cancelQuick none)
      else exec .waitReady s =
        .next { s with ret := none, tmo := s.par.timeout.getD s.tmo, pos := .waiting 0x0C#8 .ready }) ∧
    (∀ op rest, s.pos = .waiting op .ready → s.inflight = .none → s.inputs = .seqStep :: rest →
      step s = .next { s with
        inputs := rest, pos := .idle, issued := false
        result := if s.result = .pending then .canceled else s.result, ret := some ⟨.ok, none⟩ })

/-- ROUTINE_LOAD and ROUTINE_UNLOAD (44_quick_writes_wait.md R285 to R287): every byte of the RAM shadow is the routine's
code or the unload pattern, and only `shadow` and `seq.routine` change; another kind is OPERAND_RESERVED. -/
def Obligations.RoutineLoadFillsTheShadow : Prop :=
  ∀ (s : State) (kind : Byte), s.callable → s.par.loadOnStart = true → s.initDone = true →
    (∀ r k, (kind = 1#8 ∧ r = s.par.eraseRoutine ∧ k = Routine.erase ∨
        kind = 2#8 ∧ r = s.par.writeRoutine ∧ k = Routine.write) →
      ∃ t, exec (.routineLoad kind) s = .next t ∧
        t = { s with shadow := t.shadow, routine := k, ret := some ⟨.ok, none⟩ } ∧
        ∀ i < s.par.shadowSize, Mem.read t.shadow i =
          if r.off ≤ i ∧ i < r.off + r.code.length then r.code.getD (i - r.off) 0#8
          else s.par.unloadPattern.extractLsb' (8 * (i % 4)) 8) ∧
    (kind ≠ 1#8 → kind ≠ 2#8 → exec (.routineLoad kind) s = .next (s.faultedWith .operandReserved)) ∧
    (∃ t, exec .routineUnload s = .next t ∧
      t = { s with shadow := t.shadow, routine := .none, ret := some ⟨.ok, none⟩ } ∧
      ∀ i < s.par.shadowSize, Mem.read t.shadow i = s.par.unloadPattern.extractLsb' (8 * (i % 4)) 8)

/-! ## Accesses from outside the block -/

/-- A CPU store of a byte to STATUS (10_state.md R27): a 1 clears COLL, ACCERR, PVIOL; a 1 in CC with CC = 0 is
LAUNCH_WHILE_BUSY, with CC = 1 it launches what the slots hold: CMD_RESERVED for no command, LAUNCH_WITH_ERROR with ACCERR or
PVIOL left set (40_dispatch_polling.md R128), CMD_ILLEGAL_MODE for an illegal SET_QUICK (R141), else the command is in flight.
CSTAT ignores the write. A load of STATUS gives the flags in their places and 0 elsewhere, one of CONFIG READY in its place (10_state.md R25,
R29, R34), one of a CMDPARAM byte that byte; no load changes anything else (20_memory.md R66). With CC = 1 a store to a
CMDPARAM byte stores it (10_state.md R31). The model's readings: the bits without a field, log 12; the order of the launch checks, log 15; the flags
cleared before a fault stay so, log 37; all of it holds while an operation waits too, log 43; R141's 16, 512 and 4 are the
window's parameters, log 45. -/
def Obligations.ControllerRegisterAccess : Prop :=
  ∀ (s : State) (addr : Word) (rest : List Input), s.fault = none → s.par.wf = true → s.registersApart →
    ¬ inRange addr.toNat s.par.flexramBase.toNat s.par.eeeSize →
    (addr.toNat = s.par.ctrlBase.toNat + s.par.offStatus → s.par.offStatus < s.par.ctrlSize →
      (∀ v, s.inputs = .store addr [v] :: rest →
        let len := s.cmdparam[s.par.slotLenHi] ++ s.cmdparam[s.par.slotLenLo]
        let u : State := { s with
          inputs := rest
          coll := s.coll && !v.getLsbD s.par.bitColl, accerr := s.accerr && !v.getLsbD s.par.bitAccerr
          pviol := s.pviol && !v.getLsbD s.par.bitPviol }
        (v.getLsbD s.par.bitCc = false → step s = .next u) ∧
        (v.getLsbD s.par.bitCc = true → s.inflight ≠ .none →
          step s = .next { u with fault := some .launchWhileBusy }) ∧
        (v.getLsbD s.par.bitCc = true → s.inflight = .none →
          (s.cmdparam[s.par.slotCmd] ≠ s.par.cmdSetfr ∨
              s.cmdparam[s.par.slotFc] ∉ [s.par.fcEee, s.par.fcQuick, s.par.fcQuery, s.par.fcComplete] →
            step s = .next { u with fault := some .cmdReserved }) ∧
          (∀ c, s.cmdparam[s.par.slotCmd] = s.par.cmdSetfr → s.cmdparam[s.par.slotFc] = c.code s.par →
            (u.accerr = true ∨ u.pviol = true → step s = .next { u with fault := some .launchWithError }) ∧
            (u.accerr = false → u.pviol = false → ¬ s.commandLegal c len →
              step s = .next { u with fault := some .cmdIllegalMode }) ∧
            (u.accerr = false → u.pviol = false → s.commandLegal c len →
              step s = .next { u with cstat := false, inflight := .cmd c len })))) ∧
      (s.inputs = .load addr 1 :: rest →
        ∃ x : Byte, step s = .next { s with inputs := rest, loaded := [x] } ∧
          (x.getLsbD s.par.bitCc = true ↔ s.inflight = .none) ∧ x.getLsbD s.par.bitColl = s.coll ∧
          x.getLsbD s.par.bitAccerr = s.accerr ∧ x.getLsbD s.par.bitPviol = s.pviol ∧
          x.getLsbD s.par.bitCstat = s.cstat ∧
          ∀ k : Fin 8, k ∉ [s.par.bitCc, s.par.bitColl, s.par.bitAccerr, s.par.bitPviol, s.par.bitCstat] →
            x.getLsbD k = false)) ∧
    (addr.toNat = s.par.ctrlBase.toNat + s.par.offConfig → s.par.offConfig < s.par.ctrlSize →
      s.inputs = .load addr 1 :: rest →
      ∃ x : Byte, step s = .next { s with inputs := rest, loaded := [x] } ∧
        (x.getLsbD s.par.bitReady = true ↔ s.mode ≠ .offline) ∧
        ∀ k : Fin 8, k ≠ s.par.bitReady → x.getLsbD k = s.configRest.getLsbD k) ∧
    (∀ k : Fin 12, addr.toNat = s.par.ctrlBase.toNat + s.par.offCmdparam[k] → s.par.offCmdparam[k] < s.par.ctrlSize →
      (s.inputs = .load addr 1 :: rest → step s = .next { s with inputs := rest, loaded := [s.cmdparam[k]] }) ∧
      (∀ v, s.inputs = .store addr [v] :: rest → s.inflight = .none →
        step s = .next { s with inputs := rest, cmdparam := s.cmdparam.set k v }))

/-- Accesses to the block from outside that have no meaning (40_dispatch_polling.md R149, R150; 70_reset_and_hazards.md
R470): a store to the staging window (whatever READY is: log 38), a load of it while busy, a CMDPARAM write while busy. That
these are the faults while an operation waits too, and not REENTRY, is the model's choice, log 43. -/
def Obligations.OutsideAccessFaults : Prop :=
  ∀ (s : State) (addr : Word) (rest : List Input), s.fault = none →
    (∀ data, s.inputs = .store addr data :: rest →
      (∃ x, inRange x addr.toNat data.length ∧ inRange x s.par.flexramBase.toNat s.par.eeeSize) →
      step s = .next { s with inputs := rest, fault := some .stageWriteBypass }) ∧
    (∀ n, s.inputs = .load addr n :: rest → s.inflight ≠ .none →
      (∃ x, inRange x addr.toNat n ∧ inRange x s.par.flexramBase.toNat s.par.eeeSize) →
      step s = .next { s with inputs := rest, fault := some .readWhileBusy }) ∧
    (∀ (v : Byte) (k : Fin 12), s.inputs = .store addr [v] :: rest → s.inflight ≠ .none →
      ¬ inRange addr.toNat s.par.flexramBase.toNat s.par.eeeSize → s.par.offCmdparam[k] < s.par.ctrlSize →
      s.par.offCmdparam[k] ≠ s.par.offStatus → addr.toNat = s.par.ctrlBase.toNat + s.par.offCmdparam[k] →
      step s = .next { s with inputs := rest, fault := some .paramWriteWhileBusy })

/-- Events are only ever added, and none is added while its sink is disabled (00_scope.md R10); a step adds at most one
development-error event, that of the first failing check, of a timeout or of the checksum (60_exceptions.md R402, R405, R407),
and either none or the four brown-out events (43_init_brownout.md R237). The model's choices: what one step is, log 34, and
that a reset keeps the events emitted before it, log 42. -/
def Obligations.EventsAreOnlyAdded : Prop :=
  ∀ s t : State, step s = .next t →
    (∃ new, t.det = s.det ++ new ∧ new.length ≤ 1 ∧ (s.par.det = false → new = [])) ∧
    (∃ new, t.dem = s.dem ++ new ∧ (new.length = 0 ∨ new.length = 4) ∧ (s.par.dem = false → new = []))
end

