-- ==== Sys2Proof/Laws/Memory.lean ====
section
/-! SUPPORT. The laws of a memory: read after write, and that every operation keeps the canonical form. -/

namespace Sys2Proof.Machine

theorem Mem.wf_nil : Mem.wf [] := ⟨List.Pairwise.nil, by simp⟩

theorem Mem.below_nil (n : Nat) : Mem.below [] n := by simp [Mem.below]

/-- The memories of the reset state are in canonical form. -/
theorem State.reset_memories_wf :
    Mem.wf State.reset.mem ∧ Mem.wf State.reset.stage ∧ Mem.wf State.reset.nv ∧ Mem.wf State.reset.shadow :=
  ⟨Mem.wf_nil, Mem.wf_nil, Mem.wf_nil, Mem.wf_nil⟩

theorem Mem.wf_cons {c : Host.Cell} {m : Mem} :
    Mem.wf (c :: m) ↔ (∀ d ∈ m, c.1 < d.1) ∧ c.2 ≠ Mem.unlisted ∧ Mem.wf m := by
  simp only [Mem.wf, List.pairwise_cons, List.forall_mem_cons]
  tauto

/-- An address that no entry has reads as an unlisted one. -/
theorem Mem.read_of_unlisted {m : Mem} {a : Nat} (h : ∀ c ∈ m, a ≠ c.1) : Mem.read m a = Mem.unlisted := by
  induction m with
  | nil => rfl
  | cons c m ih =>
    rw [Mem.read, if_neg (h c (by simp))]
    exact ih fun d hd => h d (by simp [hd])

theorem Mem.mem_write {m : Mem} {a : Nat} {v : Byte} {c : Host.Cell} (h : c ∈ Mem.write m a v) :
    c ∈ m ∨ (c = (a, v) ∧ v ≠ Mem.unlisted) := by
  induction m with
  | nil =>
    simp only [Mem.write] at h
    split at h <;> simp_all
  | cons d m ih =>
    simp only [Mem.write] at h
    split at h
    · split at h
      · exact .inl h
      · rcases List.mem_cons.mp h with h | h
        · exact .inr ⟨h, ‹_›⟩
        · exact .inl h
    · split at h
      · split at h
        · exact .inl (by simp [h])
        · rcases List.mem_cons.mp h with h | h
          · exact .inr ⟨h, ‹_›⟩
          · exact .inl (by simp [h])
      · rcases List.mem_cons.mp h with h | h
        · exact .inl (by simp [h])
        · rcases ih h with h | h
          · exact .inl (by simp [h])
          · exact .inr h

/-- A write keeps the canonical form. -/
theorem Mem.wf_write {m : Mem} (h : Mem.wf m) (a : Nat) (v : Byte) : Mem.wf (Mem.write m a v) := by
  induction m with
  | nil =>
    simp only [Mem.write]
    split
    · exact Mem.wf_nil
    · exact Mem.wf_cons.mpr ⟨by simp, ‹_›, Mem.wf_nil⟩
  | cons c m ih =>
    obtain ⟨h1, h2, h3⟩ := Mem.wf_cons.mp h
    simp only [Mem.write]
    split
    · next hlt =>
      split
      · exact h
      · refine Mem.wf_cons.mpr ⟨fun d hd => ?_, ‹_›, h⟩
        rcases List.mem_cons.mp hd with rfl | hd
        · exact hlt
        · exact lt_trans hlt (h1 d hd)
    · split
      · next heq =>
        split
        · exact h3
        · exact Mem.wf_cons.mpr ⟨fun d hd => heq ▸ h1 d hd, ‹_›, h3⟩
      · refine Mem.wf_cons.mpr ⟨fun d hd => ?_, h2, ih h3⟩
        rcases Mem.mem_write hd with hd | ⟨rfl, -⟩
        · exact h1 d hd
        · show c.1 < a
          omega

theorem Mem.below_write {m : Mem} {n a : Nat} (h : Mem.below m n) (ha : a < n) (v : Byte) :
    Mem.below (Mem.write m a v) n := by
  intro c hc
  rcases Mem.mem_write hc with hc | ⟨rfl, -⟩
  · exact h c hc
  · exact ha

/-- What is written reads back. -/
theorem Mem.read_write_same {m : Mem} (h : Mem.wf m) (a : Nat) (v : Byte) : Mem.read (Mem.write m a v) a = v := by
  induction m with
  | nil =>
    simp only [Mem.write]
    split
    · simp_all [Mem.read]
    · simp [Mem.read]
  | cons c m ih =>
    obtain ⟨h1, -, h3⟩ := Mem.wf_cons.mp h
    have absent : a ≤ c.1 → ∀ d ∈ m, a ≠ d.1 := fun hle d hd => by have := h1 d hd; omega
    simp only [Mem.write]
    split
    · next hlt =>
      split
      · next hv =>
        rw [Mem.read, if_neg (by omega), hv]
        exact Mem.read_of_unlisted (absent (by omega))
      · simp [Mem.read]
    · split
      · next heq =>
        split
        · next hv => rw [hv]; exact Mem.read_of_unlisted (absent (by omega))
        · simp [Mem.read]
      · next hne =>
        rw [Mem.read, if_neg hne]
        exact ih h3

/-- Every other address reads as before. -/
theorem Mem.read_write_other (m : Mem) {a b : Nat} (v : Byte) (h : b ≠ a) :
    Mem.read (Mem.write m a v) b = Mem.read m b := by
  induction m with
  | nil =>
    simp only [Mem.write]
    split
    · rfl
    · simp [Mem.read, h]
  | cons c m ih =>
    simp only [Mem.write]
    split
    · split
      · rfl
      · simp [Mem.read, h]
    · split
      · next heq =>
        subst heq
        split
        · simp [Mem.read, h]
        · simp [Mem.read, h]
      · simp only [Mem.read]
        split
        · rfl
        · exact ih

theorem Mem.wf_writeBytes {m : Mem} (h : Mem.wf m) (a : Nat) (bs : List Byte) : Mem.wf (Mem.writeBytes m a bs) := by
  induction bs generalizing m a with
  | nil => exact h
  | cons b bs ih => exact ih (Mem.wf_write h a b) (a + 1)

theorem Mem.below_writeBytes {m : Mem} {n a : Nat} {bs : List Byte} (h : Mem.below m n) (ha : a + bs.length ≤ n) :
    Mem.below (Mem.writeBytes m a bs) n := by
  induction bs generalizing m a with
  | nil => exact h
  | cons b bs ih =>
    simp only [List.length_cons] at ha
    exact ih (Mem.below_write h (by omega) b) (by omega)

/-- A byte outside the written run reads as before. -/
theorem Mem.read_writeBytes_other (m : Mem) {a b : Nat} {bs : List Byte} (h : b < a ∨ a + bs.length ≤ b) :
    Mem.read (Mem.writeBytes m a bs) b = Mem.read m b := by
  induction bs generalizing m a with
  | nil => rfl
  | cons x bs ih =>
    simp only [List.length_cons] at h
    rw [Mem.writeBytes, ih _ (by omega), Mem.read_write_other _ _ (by omega)]

/-- A byte inside the written run reads as the byte written there. -/
theorem Mem.read_writeBytes_inside {m : Mem} (hm : Mem.wf m) {a i : Nat} {bs : List Byte} (h : i < bs.length) :
    Mem.read (Mem.writeBytes m a bs) (a + i) = bs[i] := by
  induction bs generalizing m a i with
  | nil => simp at h
  | cons x bs ih =>
    rw [Mem.writeBytes]
    cases i with
    | zero =>
      rw [Mem.read_writeBytes_other _ (by omega)]
      exact Mem.read_write_same hm a x
    | succ i =>
      have h' : i < bs.length := by simpa using h
      have := ih (Mem.wf_write hm a x) (a := a + 1) h'
      rw [show a + (i + 1) = a + 1 + i by omega, this]
      simp

@[simp] theorem Mem.length_readBytes (m : Mem) (a n : Nat) : (Mem.readBytes m a n).length = n := by
  simp [Mem.readBytes]

@[simp] theorem Mem.getElem_readBytes (m : Mem) (a n i : Nat) (h : i < (Mem.readBytes m a n).length) :
    (Mem.readBytes m a n)[i] = Mem.read m (a + i) := by
  simp [Mem.readBytes]

theorem Mem.wf_copyAt (values : Mem) (as : List Nat) {m : Mem} (h : Mem.wf m) : Mem.wf (Mem.copyAt values as m) := by
  induction as generalizing m with
  | nil => exact h
  | cons a as ih => exact ih (Mem.wf_write h a _)

theorem Mem.below_copyAt (values : Mem) {as : List Nat} {m : Mem} {n : Nat} (h : Mem.below m n)
    (ha : ∀ a ∈ as, a < n) : Mem.below (Mem.copyAt values as m) n := by
  induction as generalizing m with
  | nil => exact h
  | cons a as ih => exact ih (Mem.below_write h (ha a (by simp)) _) fun b hb => ha b (by simp [hb])

/-- What a memory reads as after a copy: the copied value at the listed addresses, as before elsewhere. -/
theorem Mem.read_copyAt (values : Mem) (as : List Nat) {m : Mem} (h : Mem.wf m) (b : Nat) :
    Mem.read (Mem.copyAt values as m) b = if b ∈ as then Mem.read values b else Mem.read m b := by
  induction as generalizing m with
  | nil => simp [Mem.copyAt]
  | cons a as ih =>
    rw [Mem.copyAt, ih (Mem.wf_write h a _)]
    by_cases hb : b = a
    · subst hb; simp [Mem.read_write_same h]
    · simp [hb, Mem.read_write_other _ _ hb]

theorem Mem.wf_ofCells (cs : List Host.Cell) {m : Mem} (h : Mem.wf m) : Mem.wf (Mem.ofCells cs m) := by
  induction cs generalizing m with
  | nil => exact h
  | cons c cs ih => exact ih (Mem.wf_write h _ _)

theorem Mem.below_ofCells {cs : List Host.Cell} {m : Mem} {n : Nat} (h : Mem.below m n) (hc : ∀ c ∈ cs, c.1 < n) :
    Mem.below (Mem.ofCells cs m) n := by
  induction cs generalizing m with
  | nil => exact h
  | cons c cs ih => exact ih (Mem.below_write h (hc c (by simp)) _) fun d hd => hc d (by simp [hd])

theorem Mem.below_ofFn (n : Nat) (f : Nat → Byte) : Mem.below (Mem.ofFn n f) n := by
  intro c hc
  simp only [Mem.ofFn, List.mem_filterMap, List.mem_range] at hc
  obtain ⟨i, hi, h⟩ := hc
  split at h
  · simp at h
  · obtain rfl := Option.some.inj h
    exact hi

theorem Mem.wf_ofFn (n : Nat) (f : Nat → Byte) : Mem.wf (Mem.ofFn n f) := by
  refine ⟨?_, fun c hc => ?_⟩
  · refine (List.pairwise_lt_range (n := n)).filterMap _ fun i j hij c hc d hd => ?_
    split at hc
    · simp at hc
    · split at hd
      · simp at hd
      · obtain rfl := Option.some.inj hc
        obtain rfl := Option.some.inj hd
        exact hij
  · simp only [Mem.ofFn, List.mem_filterMap, List.mem_range] at hc
    obtain ⟨i, -, h⟩ := hc
    split at h
    · simp at h
    · next hv =>
      obtain rfl := Option.some.inj h
      exact hv

/-- The bytes of a memory made from a function. -/
theorem Mem.read_ofFn (n : Nat) (f : Nat → Byte) (a : Nat) :
    Mem.read (Mem.ofFn n f) a = if a < n then f a else Mem.unlisted := by
  have key : ∀ l : List Nat,
      Mem.read (l.filterMap fun i => if f i = Mem.unlisted then none else some (i, f i)) a
        = if a ∈ l then f a else Mem.unlisted := by
    intro l
    induction l with
    | nil => rfl
    | cons i l ih =>
      by_cases hv : f i = Mem.unlisted
      · rw [List.filterMap_cons_none (by simp [hv]), ih]
        by_cases hai : a = i
        · subst hai; simp [hv]
        · simp [hai]
      · rw [List.filterMap_cons_some (b := (i, f i)) (by simp [hv]), Mem.read, ih]
        by_cases hai : a = i
        · subst hai; simp
        · simp [hai]
  simpa [Mem.ofFn] using key (List.range n)

theorem mem_insertAddr {a b : Nat} {l : List Nat} : b ∈ insertAddr a l ↔ b = a ∨ b ∈ l := by
  induction l with
  | nil => simp [insertAddr]
  | cons c l ih =>
    simp only [insertAddr]
    split
    · simp
    · split
      · next h => subst h; simp
      · simp only [List.mem_cons, ih]; tauto

/-- A set of addresses stays a set when one is put in. -/
theorem addrSet_insertAddr {l : List Nat} (h : addrSet l) (a : Nat) : addrSet (insertAddr a l) := by
  induction l with
  | nil => simp [insertAddr]
  | cons c l ih =>
    obtain ⟨h1, h2⟩ := List.pairwise_cons.mp h
    simp only [insertAddr]
    split
    · next hlt =>
      exact List.pairwise_cons.mpr ⟨fun d hd => by
        rcases List.mem_cons.mp hd with rfl | hd
        · exact hlt
        · exact lt_trans hlt (h1 d hd), h⟩
    · split
      · exact h
      · refine List.pairwise_cons.mpr ⟨fun d hd => ?_, ih h2⟩
        rcases mem_insertAddr.mp hd with rfl | hd
        · omega
        · exact h1 d hd

@[simp] theorem mem_addrsFrom {a n b : Nat} : b ∈ addrsFrom a n ↔ a ≤ b ∧ b < a + n := by
  simp only [addrsFrom, List.mem_map, List.mem_range]
  constructor
  · rintro ⟨i, hi, rfl⟩; omega
  · intro h; exact ⟨b - a, by omega, by omega⟩

theorem mem_foldl_insertAddr {as l : List Nat} {b : Nat} :
    b ∈ as.foldl (fun q x => insertAddr x q) l ↔ b ∈ as ∨ b ∈ l := by
  induction as generalizing l with
  | nil => simp
  | cons a as ih => rw [List.foldl_cons, ih, mem_insertAddr, List.mem_cons]; tauto

theorem addrSet_foldl_insertAddr {as l : List Nat} (h : addrSet l) :
    addrSet (as.foldl (fun q x => insertAddr x q) l) := by
  induction as generalizing l with
  | nil => exact h
  | cons a as ih => exact ih (addrSet_insertAddr h a)

/-- The bytes of a little-endian word are the bytes it was made of (20_memory.md R62). -/
theorem bytesOfWord_wordOfBytes (b0 b1 b2 b3 : Byte) : bytesOfWord (wordOfBytes b0 b1 b2 b3) = [b0, b1, b2, b3] := by
  simp only [bytesOfWord, wordOfBytes, List.cons.injEq, and_true]
  refine ⟨?_, ?_, ?_, ?_⟩ <;>
    (apply BitVec.eq_of_getLsbD_eq
     intro i hi
     have h : i < 8 := hi
     interval_cases i <;> simp)

end Sys2Proof.Machine
end

