-- ==== Sys2Proof/Laws/State.lean ====
section
/-! SUPPORT. One lemma per field and named update of the state: what the update leaves and what it sets. -/

namespace Sys2Proof.Machine

@[simp] theorem State.raise_par (r : Fault) (s : State) : (s.raise r).par = s.par := rfl
@[simp] theorem State.raise_coll (r : Fault) (s : State) : (s.raise r).coll = s.coll := rfl
@[simp] theorem State.raise_accerr (r : Fault) (s : State) : (s.raise r).accerr = s.accerr := rfl
@[simp] theorem State.raise_pviol (r : Fault) (s : State) : (s.raise r).pviol = s.pviol := rfl
@[simp] theorem State.raise_cstat (r : Fault) (s : State) : (s.raise r).cstat = s.cstat := rfl
@[simp] theorem State.raise_configRest (r : Fault) (s : State) : (s.raise r).configRest = s.configRest := rfl
@[simp] theorem State.raise_cmdparam (r : Fault) (s : State) : (s.raise r).cmdparam = s.cmdparam := rfl
@[simp] theorem State.raise_stage (r : Fault) (s : State) : (s.raise r).stage = s.stage := rfl
@[simp] theorem State.raise_mode (r : Fault) (s : State) : (s.raise r).mode = s.mode := rfl
@[simp] theorem State.raise_inflight (r : Fault) (s : State) : (s.raise r).inflight = s.inflight := rfl
@[simp] theorem State.raise_boLatch (r : Fault) (s : State) : (s.raise r).boLatch = s.boLatch := rfl
@[simp] theorem State.raise_pend (r : Fault) (s : State) : (s.raise r).pend = s.pend := rfl
@[simp] theorem State.raise_nv (r : Fault) (s : State) : (s.raise r).nv = s.nv := rfl
@[simp] theorem State.raise_qdirty (r : Fault) (s : State) : (s.raise r).qdirty = s.qdirty := rfl
@[simp] theorem State.raise_dst (r : Fault) (s : State) : (s.raise r).dst = s.dst := rfl
@[simp] theorem State.raise_src (r : Fault) (s : State) : (s.raise r).src = s.src := rfl
@[simp] theorem State.raise_srckind (r : Fault) (s : State) : (s.raise r).srckind = s.srckind := rfl
@[simp] theorem State.raise_rem (r : Fault) (s : State) : (s.raise r).rem = s.rem := rfl
@[simp] theorem State.raise_result (r : Fault) (s : State) : (s.raise r).result = s.result := rfl
@[simp] theorem State.raise_tmo (r : Fault) (s : State) : (s.raise r).tmo = s.tmo := rfl
@[simp] theorem State.raise_issued (r : Fault) (s : State) : (s.raise r).issued = s.issued := rfl
@[simp] theorem State.raise_initDone (r : Fault) (s : State) : (s.raise r).initDone = s.initDone := rfl
@[simp] theorem State.raise_quick (r : Fault) (s : State) : (s.raise r).quick = s.quick := rfl
@[simp] theorem State.raise_boSeen (r : Fault) (s : State) : (s.raise r).boSeen = s.boSeen := rfl
@[simp] theorem State.raise_routine (r : Fault) (s : State) : (s.raise r).routine = s.routine := rfl
@[simp] theorem State.raise_shadow (r : Fault) (s : State) : (s.raise r).shadow = s.shadow := rfl
@[simp] theorem State.raise_fault (r : Fault) (s : State) : (s.raise r).fault = some r := rfl
@[simp] theorem State.raise_crcSr (r : Fault) (s : State) : (s.raise r).crcSr = s.crcSr := rfl
@[simp] theorem State.raise_mem (r : Fault) (s : State) : (s.raise r).mem = s.mem := rfl
@[simp] theorem State.raise_pos (r : Fault) (s : State) : (s.raise r).pos = s.pos := rfl
@[simp] theorem State.raise_ret (r : Fault) (s : State) : (s.raise r).ret = s.ret := rfl
@[simp] theorem State.raise_det (r : Fault) (s : State) : (s.raise r).det = s.det := rfl
@[simp] theorem State.raise_dem (r : Fault) (s : State) : (s.raise r).dem = s.dem := rfl
@[simp] theorem State.raise_callbacks (r : Fault) (s : State) : (s.raise r).callbacks = s.callbacks := rfl
@[simp] theorem State.raise_loaded (r : Fault) (s : State) : (s.raise r).loaded = s.loaded := rfl
@[simp] theorem State.raise_inputs (r : Fault) (s : State) : (s.raise r).inputs = s.inputs := rfl

@[simp] theorem State.finish_par (st : Status) (n : Option Nat) (s : State) : (s.finish st n).par = s.par := rfl
@[simp] theorem State.finish_coll (st : Status) (n : Option Nat) (s : State) : (s.finish st n).coll = s.coll := rfl
@[simp] theorem State.finish_accerr (st : Status) (n : Option Nat) (s : State) : (s.finish st n).accerr = s.accerr := rfl
@[simp] theorem State.finish_pviol (st : Status) (n : Option Nat) (s : State) : (s.finish st n).pviol = s.pviol := rfl
@[simp] theorem State.finish_cstat (st : Status) (n : Option Nat) (s : State) : (s.finish st n).cstat = s.cstat := rfl
@[simp] theorem State.finish_configRest (st : Status) (n : Option Nat) (s : State) : (s.finish st n).configRest = s.configRest := rfl
@[simp] theorem State.finish_cmdparam (st : Status) (n : Option Nat) (s : State) : (s.finish st n).cmdparam = s.cmdparam := rfl
@[simp] theorem State.finish_stage (st : Status) (n : Option Nat) (s : State) : (s.finish st n).stage = s.stage := rfl
@[simp] theorem State.finish_mode (st : Status) (n : Option Nat) (s : State) : (s.finish st n).mode = s.mode := rfl
@[simp] theorem State.finish_inflight (st : Status) (n : Option Nat) (s : State) : (s.finish st n).inflight = s.inflight := rfl
@[simp] theorem State.finish_boLatch (st : Status) (n : Option Nat) (s : State) : (s.finish st n).boLatch = s.boLatch := rfl
@[simp] theorem State.finish_pend (st : Status) (n : Option Nat) (s : State) : (s.finish st n).pend = s.pend := rfl
@[simp] theorem State.finish_nv (st : Status) (n : Option Nat) (s : State) : (s.finish st n).nv = s.nv := rfl
@[simp] theorem State.finish_qdirty (st : Status) (n : Option Nat) (s : State) : (s.finish st n).qdirty = s.qdirty := rfl
@[simp] theorem State.finish_dst (st : Status) (n : Option Nat) (s : State) : (s.finish st n).dst = s.dst := rfl
@[simp] theorem State.finish_src (st : Status) (n : Option Nat) (s : State) : (s.finish st n).src = s.src := rfl
@[simp] theorem State.finish_srckind (st : Status) (n : Option Nat) (s : State) : (s.finish st n).srckind = s.srckind := rfl
@[simp] theorem State.finish_rem (st : Status) (n : Option Nat) (s : State) : (s.finish st n).rem = s.rem := rfl
@[simp] theorem State.finish_result (st : Status) (n : Option Nat) (s : State) : (s.finish st n).result = s.result := rfl
@[simp] theorem State.finish_tmo (st : Status) (n : Option Nat) (s : State) : (s.finish st n).tmo = s.tmo := rfl
@[simp] theorem State.finish_issued (st : Status) (n : Option Nat) (s : State) : (s.finish st n).issued = s.issued := rfl
@[simp] theorem State.finish_initDone (st : Status) (n : Option Nat) (s : State) : (s.finish st n).initDone = s.initDone := rfl
@[simp] theorem State.finish_quick (st : Status) (n : Option Nat) (s : State) : (s.finish st n).quick = s.quick := rfl
@[simp] theorem State.finish_boSeen (st : Status) (n : Option Nat) (s : State) : (s.finish st n).boSeen = s.boSeen := rfl
@[simp] theorem State.finish_routine (st : Status) (n : Option Nat) (s : State) : (s.finish st n).routine = s.routine := rfl
@[simp] theorem State.finish_shadow (st : Status) (n : Option Nat) (s : State) : (s.finish st n).shadow = s.shadow := rfl
@[simp] theorem State.finish_fault (st : Status) (n : Option Nat) (s : State) : (s.finish st n).fault = s.fault := rfl
@[simp] theorem State.finish_crcSr (st : Status) (n : Option Nat) (s : State) : (s.finish st n).crcSr = s.crcSr := rfl
@[simp] theorem State.finish_mem (st : Status) (n : Option Nat) (s : State) : (s.finish st n).mem = s.mem := rfl
@[simp] theorem State.finish_pos (st : Status) (n : Option Nat) (s : State) : (s.finish st n).pos = .idle := rfl
@[simp] theorem State.finish_ret (st : Status) (n : Option Nat) (s : State) : (s.finish st n).ret = some ⟨st, n⟩ := rfl
@[simp] theorem State.finish_det (st : Status) (n : Option Nat) (s : State) : (s.finish st n).det = s.det := rfl
@[simp] theorem State.finish_dem (st : Status) (n : Option Nat) (s : State) : (s.finish st n).dem = s.dem := rfl
@[simp] theorem State.finish_callbacks (st : Status) (n : Option Nat) (s : State) : (s.finish st n).callbacks = s.callbacks := rfl
@[simp] theorem State.finish_loaded (st : Status) (n : Option Nat) (s : State) : (s.finish st n).loaded = s.loaded := rfl
@[simp] theorem State.finish_inputs (st : Status) (n : Option Nat) (s : State) : (s.finish st n).inputs = s.inputs := rfl

@[simp] theorem State.w1c_par (s : State) : s.w1c.par = s.par := rfl
@[simp] theorem State.w1c_coll (s : State) : s.w1c.coll = false := by simp [State.w1c, State.clearFlags, clrMask]
@[simp] theorem State.w1c_accerr (s : State) : s.w1c.accerr = false := by simp [State.w1c, State.clearFlags, clrMask]
@[simp] theorem State.w1c_pviol (s : State) : s.w1c.pviol = false := by simp [State.w1c, State.clearFlags, clrMask]
@[simp] theorem State.w1c_cstat (s : State) : s.w1c.cstat = s.cstat := rfl
@[simp] theorem State.w1c_configRest (s : State) : s.w1c.configRest = s.configRest := rfl
@[simp] theorem State.w1c_cmdparam (s : State) : s.w1c.cmdparam = s.cmdparam := rfl
@[simp] theorem State.w1c_stage (s : State) : s.w1c.stage = s.stage := rfl
@[simp] theorem State.w1c_mode (s : State) : s.w1c.mode = s.mode := rfl
@[simp] theorem State.w1c_inflight (s : State) : s.w1c.inflight = s.inflight := rfl
@[simp] theorem State.w1c_boLatch (s : State) : s.w1c.boLatch = s.boLatch := rfl
@[simp] theorem State.w1c_pend (s : State) : s.w1c.pend = s.pend := rfl
@[simp] theorem State.w1c_nv (s : State) : s.w1c.nv = s.nv := rfl
@[simp] theorem State.w1c_qdirty (s : State) : s.w1c.qdirty = s.qdirty := rfl
@[simp] theorem State.w1c_dst (s : State) : s.w1c.dst = s.dst := rfl
@[simp] theorem State.w1c_src (s : State) : s.w1c.src = s.src := rfl
@[simp] theorem State.w1c_srckind (s : State) : s.w1c.srckind = s.srckind := rfl
@[simp] theorem State.w1c_rem (s : State) : s.w1c.rem = s.rem := rfl
@[simp] theorem State.w1c_result (s : State) : s.w1c.result = s.result := rfl
@[simp] theorem State.w1c_tmo (s : State) : s.w1c.tmo = s.tmo := rfl
@[simp] theorem State.w1c_issued (s : State) : s.w1c.issued = s.issued := rfl
@[simp] theorem State.w1c_initDone (s : State) : s.w1c.initDone = s.initDone := rfl
@[simp] theorem State.w1c_quick (s : State) : s.w1c.quick = s.quick := rfl
@[simp] theorem State.w1c_boSeen (s : State) : s.w1c.boSeen = s.boSeen := rfl
@[simp] theorem State.w1c_routine (s : State) : s.w1c.routine = s.routine := rfl
@[simp] theorem State.w1c_shadow (s : State) : s.w1c.shadow = s.shadow := rfl
@[simp] theorem State.w1c_fault (s : State) : s.w1c.fault = s.fault := rfl
@[simp] theorem State.w1c_crcSr (s : State) : s.w1c.crcSr = s.crcSr := rfl
@[simp] theorem State.w1c_mem (s : State) : s.w1c.mem = s.mem := rfl
@[simp] theorem State.w1c_pos (s : State) : s.w1c.pos = s.pos := rfl
@[simp] theorem State.w1c_ret (s : State) : s.w1c.ret = s.ret := rfl
@[simp] theorem State.w1c_det (s : State) : s.w1c.det = s.det := rfl
@[simp] theorem State.w1c_dem (s : State) : s.w1c.dem = s.dem := rfl
@[simp] theorem State.w1c_callbacks (s : State) : s.w1c.callbacks = s.callbacks := rfl
@[simp] theorem State.w1c_loaded (s : State) : s.w1c.loaded = s.loaded := rfl
@[simp] theorem State.w1c_inputs (s : State) : s.w1c.inputs = s.inputs := rfl

@[simp] theorem State.setSlot_par (k : Fin 12) (v : Byte) (s : State) : (s.setSlot k v).par = s.par := rfl
@[simp] theorem State.setSlot_coll (k : Fin 12) (v : Byte) (s : State) : (s.setSlot k v).coll = s.coll := rfl
@[simp] theorem State.setSlot_accerr (k : Fin 12) (v : Byte) (s : State) : (s.setSlot k v).accerr = s.accerr := rfl
@[simp] theorem State.setSlot_pviol (k : Fin 12) (v : Byte) (s : State) : (s.setSlot k v).pviol = s.pviol := rfl
@[simp] theorem State.setSlot_cstat (k : Fin 12) (v : Byte) (s : State) : (s.setSlot k v).cstat = s.cstat := rfl
@[simp] theorem State.setSlot_configRest (k : Fin 12) (v : Byte) (s : State) : (s.setSlot k v).configRest = s.configRest := rfl
@[simp] theorem State.setSlot_cmdparam (k : Fin 12) (v : Byte) (s : State) : (s.setSlot k v).cmdparam = s.cmdparam.set k v := rfl
@[simp] theorem State.setSlot_stage (k : Fin 12) (v : Byte) (s : State) : (s.setSlot k v).stage = s.stage := rfl
@[simp] theorem State.setSlot_mode (k : Fin 12) (v : Byte) (s : State) : (s.setSlot k v).mode = s.mode := rfl
@[simp] theorem State.setSlot_inflight (k : Fin 12) (v : Byte) (s : State) : (s.setSlot k v).inflight = s.inflight := rfl
@[simp] theorem State.setSlot_boLatch (k : Fin 12) (v : Byte) (s : State) : (s.setSlot k v).boLatch = s.boLatch := rfl
@[simp] theorem State.setSlot_pend (k : Fin 12) (v : Byte) (s : State) : (s.setSlot k v).pend = s.pend := rfl
@[simp] theorem State.setSlot_nv (k : Fin 12) (v : Byte) (s : State) : (s.setSlot k v).nv = s.nv := rfl
@[simp] theorem State.setSlot_qdirty (k : Fin 12) (v : Byte) (s : State) : (s.setSlot k v).qdirty = s.qdirty := rfl
@[simp] theorem State.setSlot_dst (k : Fin 12) (v : Byte) (s : State) : (s.setSlot k v).dst = s.dst := rfl
@[simp] theorem State.setSlot_src (k : Fin 12) (v : Byte) (s : State) : (s.setSlot k v).src = s.src := rfl
@[simp] theorem State.setSlot_srckind (k : Fin 12) (v : Byte) (s : State) : (s.setSlot k v).srckind = s.srckind := rfl
@[simp] theorem State.setSlot_rem (k : Fin 12) (v : Byte) (s : State) : (s.setSlot k v).rem = s.rem := rfl
@[simp] theorem State.setSlot_result (k : Fin 12) (v : Byte) (s : State) : (s.setSlot k v).result = s.result := rfl
@[simp] theorem State.setSlot_tmo (k : Fin 12) (v : Byte) (s : State) : (s.setSlot k v).tmo = s.tmo := rfl
@[simp] theorem State.setSlot_issued (k : Fin 12) (v : Byte) (s : State) : (s.setSlot k v).issued = s.issued := rfl
@[simp] theorem State.setSlot_initDone (k : Fin 12) (v : Byte) (s : State) : (s.setSlot k v).initDone = s.initDone := rfl
@[simp] theorem State.setSlot_quick (k : Fin 12) (v : Byte) (s : State) : (s.setSlot k v).quick = s.quick := rfl
@[simp] theorem State.setSlot_boSeen (k : Fin 12) (v : Byte) (s : State) : (s.setSlot k v).boSeen = s.boSeen := rfl
@[simp] theorem State.setSlot_routine (k : Fin 12) (v : Byte) (s : State) : (s.setSlot k v).routine = s.routine := rfl
@[simp] theorem State.setSlot_shadow (k : Fin 12) (v : Byte) (s : State) : (s.setSlot k v).shadow = s.shadow := rfl
@[simp] theorem State.setSlot_fault (k : Fin 12) (v : Byte) (s : State) : (s.setSlot k v).fault = s.fault := rfl
@[simp] theorem State.setSlot_crcSr (k : Fin 12) (v : Byte) (s : State) : (s.setSlot k v).crcSr = s.crcSr := rfl
@[simp] theorem State.setSlot_mem (k : Fin 12) (v : Byte) (s : State) : (s.setSlot k v).mem = s.mem := rfl
@[simp] theorem State.setSlot_pos (k : Fin 12) (v : Byte) (s : State) : (s.setSlot k v).pos = s.pos := rfl
@[simp] theorem State.setSlot_ret (k : Fin 12) (v : Byte) (s : State) : (s.setSlot k v).ret = s.ret := rfl
@[simp] theorem State.setSlot_det (k : Fin 12) (v : Byte) (s : State) : (s.setSlot k v).det = s.det := rfl
@[simp] theorem State.setSlot_dem (k : Fin 12) (v : Byte) (s : State) : (s.setSlot k v).dem = s.dem := rfl
@[simp] theorem State.setSlot_callbacks (k : Fin 12) (v : Byte) (s : State) : (s.setSlot k v).callbacks = s.callbacks := rfl
@[simp] theorem State.setSlot_loaded (k : Fin 12) (v : Byte) (s : State) : (s.setSlot k v).loaded = s.loaded := rfl
@[simp] theorem State.setSlot_inputs (k : Fin 12) (v : Byte) (s : State) : (s.setSlot k v).inputs = s.inputs := rfl

@[simp] theorem State.startWait_par (op : Byte) (w : WaitPoint) (s : State) : (s.startWait op w).par = s.par := rfl
@[simp] theorem State.startWait_coll (op : Byte) (w : WaitPoint) (s : State) : (s.startWait op w).coll = s.coll := rfl
@[simp] theorem State.startWait_accerr (op : Byte) (w : WaitPoint) (s : State) : (s.startWait op w).accerr = s.accerr := rfl
@[simp] theorem State.startWait_pviol (op : Byte) (w : WaitPoint) (s : State) : (s.startWait op w).pviol = s.pviol := rfl
@[simp] theorem State.startWait_cstat (op : Byte) (w : WaitPoint) (s : State) : (s.startWait op w).cstat = s.cstat := rfl
@[simp] theorem State.startWait_configRest (op : Byte) (w : WaitPoint) (s : State) : (s.startWait op w).configRest = s.configRest := rfl
@[simp] theorem State.startWait_cmdparam (op : Byte) (w : WaitPoint) (s : State) : (s.startWait op w).cmdparam = s.cmdparam := rfl
@[simp] theorem State.startWait_stage (op : Byte) (w : WaitPoint) (s : State) : (s.startWait op w).stage = s.stage := rfl
@[simp] theorem State.startWait_mode (op : Byte) (w : WaitPoint) (s : State) : (s.startWait op w).mode = s.mode := rfl
@[simp] theorem State.startWait_inflight (op : Byte) (w : WaitPoint) (s : State) : (s.startWait op w).inflight = s.inflight := rfl
@[simp] theorem State.startWait_boLatch (op : Byte) (w : WaitPoint) (s : State) : (s.startWait op w).boLatch = s.boLatch := rfl
@[simp] theorem State.startWait_pend (op : Byte) (w : WaitPoint) (s : State) : (s.startWait op w).pend = s.pend := rfl
@[simp] theorem State.startWait_nv (op : Byte) (w : WaitPoint) (s : State) : (s.startWait op w).nv = s.nv := rfl
@[simp] theorem State.startWait_qdirty (op : Byte) (w : WaitPoint) (s : State) : (s.startWait op w).qdirty = s.qdirty := rfl
@[simp] theorem State.startWait_dst (op : Byte) (w : WaitPoint) (s : State) : (s.startWait op w).dst = s.dst := rfl
@[simp] theorem State.startWait_src (op : Byte) (w : WaitPoint) (s : State) : (s.startWait op w).src = s.src := rfl
@[simp] theorem State.startWait_srckind (op : Byte) (w : WaitPoint) (s : State) : (s.startWait op w).srckind = s.srckind := rfl
@[simp] theorem State.startWait_rem (op : Byte) (w : WaitPoint) (s : State) : (s.startWait op w).rem = s.rem := rfl
@[simp] theorem State.startWait_result (op : Byte) (w : WaitPoint) (s : State) : (s.startWait op w).result = s.result := rfl
@[simp] theorem State.startWait_tmo (op : Byte) (w : WaitPoint) (s : State) : (s.startWait op w).tmo = s.par.timeout.getD s.tmo := rfl
@[simp] theorem State.startWait_issued (op : Byte) (w : WaitPoint) (s : State) : (s.startWait op w).issued = s.issued := rfl
@[simp] theorem State.startWait_initDone (op : Byte) (w : WaitPoint) (s : State) : (s.startWait op w).initDone = s.initDone := rfl
@[simp] theorem State.startWait_quick (op : Byte) (w : WaitPoint) (s : State) : (s.startWait op w).quick = s.quick := rfl
@[simp] theorem State.startWait_boSeen (op : Byte) (w : WaitPoint) (s : State) : (s.startWait op w).boSeen = s.boSeen := rfl
@[simp] theorem State.startWait_routine (op : Byte) (w : WaitPoint) (s : State) : (s.startWait op w).routine = s.routine := rfl
@[simp] theorem State.startWait_shadow (op : Byte) (w : WaitPoint) (s : State) : (s.startWait op w).shadow = s.shadow := rfl
@[simp] theorem State.startWait_fault (op : Byte) (w : WaitPoint) (s : State) : (s.startWait op w).fault = s.fault := rfl
@[simp] theorem State.startWait_crcSr (op : Byte) (w : WaitPoint) (s : State) : (s.startWait op w).crcSr = s.crcSr := rfl
@[simp] theorem State.startWait_mem (op : Byte) (w : WaitPoint) (s : State) : (s.startWait op w).mem = s.mem := rfl
@[simp] theorem State.startWait_pos (op : Byte) (w : WaitPoint) (s : State) : (s.startWait op w).pos = .waiting op w := rfl
@[simp] theorem State.startWait_ret (op : Byte) (w : WaitPoint) (s : State) : (s.startWait op w).ret = s.ret := rfl
@[simp] theorem State.startWait_det (op : Byte) (w : WaitPoint) (s : State) : (s.startWait op w).det = s.det := rfl
@[simp] theorem State.startWait_dem (op : Byte) (w : WaitPoint) (s : State) : (s.startWait op w).dem = s.dem := rfl
@[simp] theorem State.startWait_callbacks (op : Byte) (w : WaitPoint) (s : State) : (s.startWait op w).callbacks = s.callbacks := rfl
@[simp] theorem State.startWait_loaded (op : Byte) (w : WaitPoint) (s : State) : (s.startWait op w).loaded = s.loaded := rfl
@[simp] theorem State.startWait_inputs (op : Byte) (w : WaitPoint) (s : State) : (s.startWait op w).inputs = s.inputs := rfl

@[simp] theorem State.advance_par (n : Nat) (s : State) : (s.advance n).par = s.par := rfl
@[simp] theorem State.advance_coll (n : Nat) (s : State) : (s.advance n).coll = s.coll := rfl
@[simp] theorem State.advance_accerr (n : Nat) (s : State) : (s.advance n).accerr = s.accerr := rfl
@[simp] theorem State.advance_pviol (n : Nat) (s : State) : (s.advance n).pviol = s.pviol := rfl
@[simp] theorem State.advance_cstat (n : Nat) (s : State) : (s.advance n).cstat = s.cstat := rfl
@[simp] theorem State.advance_configRest (n : Nat) (s : State) : (s.advance n).configRest = s.configRest := rfl
@[simp] theorem State.advance_cmdparam (n : Nat) (s : State) : (s.advance n).cmdparam = s.cmdparam := rfl
@[simp] theorem State.advance_stage (n : Nat) (s : State) : (s.advance n).stage = s.stage := rfl
@[simp] theorem State.advance_mode (n : Nat) (s : State) : (s.advance n).mode = s.mode := rfl
@[simp] theorem State.advance_inflight (n : Nat) (s : State) : (s.advance n).inflight = s.inflight := rfl
@[simp] theorem State.advance_boLatch (n : Nat) (s : State) : (s.advance n).boLatch = s.boLatch := rfl
@[simp] theorem State.advance_pend (n : Nat) (s : State) : (s.advance n).pend = s.pend := rfl
@[simp] theorem State.advance_nv (n : Nat) (s : State) : (s.advance n).nv = s.nv := rfl
@[simp] theorem State.advance_qdirty (n : Nat) (s : State) : (s.advance n).qdirty = s.qdirty := rfl
@[simp] theorem State.advance_dst (n : Nat) (s : State) : (s.advance n).dst = s.dst + BitVec.ofNat 32 n := rfl
@[simp] theorem State.advance_src (n : Nat) (s : State) : (s.advance n).src = s.src + BitVec.ofNat 32 n := rfl
@[simp] theorem State.advance_srckind (n : Nat) (s : State) : (s.advance n).srckind = s.srckind := rfl
@[simp] theorem State.advance_rem (n : Nat) (s : State) : (s.advance n).rem = s.rem - BitVec.ofNat 32 n := rfl
@[simp] theorem State.advance_result (n : Nat) (s : State) : (s.advance n).result = s.result := rfl
@[simp] theorem State.advance_tmo (n : Nat) (s : State) : (s.advance n).tmo = s.tmo := rfl
@[simp] theorem State.advance_issued (n : Nat) (s : State) : (s.advance n).issued = s.issued := rfl
@[simp] theorem State.advance_initDone (n : Nat) (s : State) : (s.advance n).initDone = s.initDone := rfl
@[simp] theorem State.advance_quick (n : Nat) (s : State) : (s.advance n).quick = s.quick := rfl
@[simp] theorem State.advance_boSeen (n : Nat) (s : State) : (s.advance n).boSeen = s.boSeen := rfl
@[simp] theorem State.advance_routine (n : Nat) (s : State) : (s.advance n).routine = s.routine := rfl
@[simp] theorem State.advance_shadow (n : Nat) (s : State) : (s.advance n).shadow = s.shadow := rfl
@[simp] theorem State.advance_fault (n : Nat) (s : State) : (s.advance n).fault = s.fault := rfl
@[simp] theorem State.advance_crcSr (n : Nat) (s : State) : (s.advance n).crcSr = s.crcSr := rfl
@[simp] theorem State.advance_mem (n : Nat) (s : State) : (s.advance n).mem = s.mem := rfl
@[simp] theorem State.advance_pos (n : Nat) (s : State) : (s.advance n).pos = s.pos := rfl
@[simp] theorem State.advance_ret (n : Nat) (s : State) : (s.advance n).ret = s.ret := rfl
@[simp] theorem State.advance_det (n : Nat) (s : State) : (s.advance n).det = s.det := rfl
@[simp] theorem State.advance_dem (n : Nat) (s : State) : (s.advance n).dem = s.dem := rfl
@[simp] theorem State.advance_callbacks (n : Nat) (s : State) : (s.advance n).callbacks = s.callbacks := rfl
@[simp] theorem State.advance_loaded (n : Nat) (s : State) : (s.advance n).loaded = s.loaded := rfl
@[simp] theorem State.advance_inputs (n : Nat) (s : State) : (s.advance n).inputs = s.inputs := rfl

@[simp] theorem State.reloadTmo_par (s : State) : s.reloadTmo.par = s.par := rfl
@[simp] theorem State.reloadTmo_coll (s : State) : s.reloadTmo.coll = s.coll := rfl
@[simp] theorem State.reloadTmo_accerr (s : State) : s.reloadTmo.accerr = s.accerr := rfl
@[simp] theorem State.reloadTmo_pviol (s : State) : s.reloadTmo.pviol = s.pviol := rfl
@[simp] theorem State.reloadTmo_cstat (s : State) : s.reloadTmo.cstat = s.cstat := rfl
@[simp] theorem State.reloadTmo_configRest (s : State) : s.reloadTmo.configRest = s.configRest := rfl
@[simp] theorem State.reloadTmo_cmdparam (s : State) : s.reloadTmo.cmdparam = s.cmdparam := rfl
@[simp] theorem State.reloadTmo_stage (s : State) : s.reloadTmo.stage = s.stage := rfl
@[simp] theorem State.reloadTmo_mode (s : State) : s.reloadTmo.mode = s.mode := rfl
@[simp] theorem State.reloadTmo_inflight (s : State) : s.reloadTmo.inflight = s.inflight := rfl
@[simp] theorem State.reloadTmo_boLatch (s : State) : s.reloadTmo.boLatch = s.boLatch := rfl
@[simp] theorem State.reloadTmo_pend (s : State) : s.reloadTmo.pend = s.pend := rfl
@[simp] theorem State.reloadTmo_nv (s : State) : s.reloadTmo.nv = s.nv := rfl
@[simp] theorem State.reloadTmo_qdirty (s : State) : s.reloadTmo.qdirty = s.qdirty := rfl
@[simp] theorem State.reloadTmo_dst (s : State) : s.reloadTmo.dst = s.dst := rfl
@[simp] theorem State.reloadTmo_src (s : State) : s.reloadTmo.src = s.src := rfl
@[simp] theorem State.reloadTmo_srckind (s : State) : s.reloadTmo.srckind = s.srckind := rfl
@[simp] theorem State.reloadTmo_rem (s : State) : s.reloadTmo.rem = s.rem := rfl
@[simp] theorem State.reloadTmo_result (s : State) : s.reloadTmo.result = s.result := rfl
@[simp] theorem State.reloadTmo_tmo (s : State) : s.reloadTmo.tmo = s.par.timeout.getD s.tmo := rfl
@[simp] theorem State.reloadTmo_issued (s : State) : s.reloadTmo.issued = s.issued := rfl
@[simp] theorem State.reloadTmo_initDone (s : State) : s.reloadTmo.initDone = s.initDone := rfl
@[simp] theorem State.reloadTmo_quick (s : State) : s.reloadTmo.quick = s.quick := rfl
@[simp] theorem State.reloadTmo_boSeen (s : State) : s.reloadTmo.boSeen = s.boSeen := rfl
@[simp] theorem State.reloadTmo_routine (s : State) : s.reloadTmo.routine = s.routine := rfl
@[simp] theorem State.reloadTmo_shadow (s : State) : s.reloadTmo.shadow = s.shadow := rfl
@[simp] theorem State.reloadTmo_fault (s : State) : s.reloadTmo.fault = s.fault := rfl
@[simp] theorem State.reloadTmo_crcSr (s : State) : s.reloadTmo.crcSr = s.crcSr := rfl
@[simp] theorem State.reloadTmo_mem (s : State) : s.reloadTmo.mem = s.mem := rfl
@[simp] theorem State.reloadTmo_pos (s : State) : s.reloadTmo.pos = s.pos := rfl
@[simp] theorem State.reloadTmo_ret (s : State) : s.reloadTmo.ret = s.ret := rfl
@[simp] theorem State.reloadTmo_det (s : State) : s.reloadTmo.det = s.det := rfl
@[simp] theorem State.reloadTmo_dem (s : State) : s.reloadTmo.dem = s.dem := rfl
@[simp] theorem State.reloadTmo_callbacks (s : State) : s.reloadTmo.callbacks = s.callbacks := rfl
@[simp] theorem State.reloadTmo_loaded (s : State) : s.reloadTmo.loaded = s.loaded := rfl
@[simp] theorem State.reloadTmo_inputs (s : State) : s.reloadTmo.inputs = s.inputs := rfl

@[simp] theorem State.checkCfg_par (cfg : Word) (s : State) : (s.checkCfg cfg).par = s.par := rfl
@[simp] theorem State.checkCfg_coll (cfg : Word) (s : State) : (s.checkCfg cfg).coll = s.coll := rfl
@[simp] theorem State.checkCfg_accerr (cfg : Word) (s : State) : (s.checkCfg cfg).accerr = s.accerr := rfl
@[simp] theorem State.checkCfg_pviol (cfg : Word) (s : State) : (s.checkCfg cfg).pviol = s.pviol := rfl
@[simp] theorem State.checkCfg_cstat (cfg : Word) (s : State) : (s.checkCfg cfg).cstat = s.cstat := rfl
@[simp] theorem State.checkCfg_configRest (cfg : Word) (s : State) : (s.checkCfg cfg).configRest = s.configRest := rfl
@[simp] theorem State.checkCfg_cmdparam (cfg : Word) (s : State) : (s.checkCfg cfg).cmdparam = s.cmdparam := rfl
@[simp] theorem State.checkCfg_stage (cfg : Word) (s : State) : (s.checkCfg cfg).stage = s.stage := rfl
@[simp] theorem State.checkCfg_mode (cfg : Word) (s : State) : (s.checkCfg cfg).mode = s.mode := rfl
@[simp] theorem State.checkCfg_inflight (cfg : Word) (s : State) : (s.checkCfg cfg).inflight = s.inflight := rfl
@[simp] theorem State.checkCfg_boLatch (cfg : Word) (s : State) : (s.checkCfg cfg).boLatch = s.boLatch := rfl
@[simp] theorem State.checkCfg_pend (cfg : Word) (s : State) : (s.checkCfg cfg).pend = s.pend := rfl
@[simp] theorem State.checkCfg_nv (cfg : Word) (s : State) : (s.checkCfg cfg).nv = s.nv := rfl
@[simp] theorem State.checkCfg_qdirty (cfg : Word) (s : State) : (s.checkCfg cfg).qdirty = s.qdirty := rfl
@[simp] theorem State.checkCfg_dst (cfg : Word) (s : State) : (s.checkCfg cfg).dst = s.dst := rfl
@[simp] theorem State.checkCfg_src (cfg : Word) (s : State) : (s.checkCfg cfg).src = s.src := rfl
@[simp] theorem State.checkCfg_srckind (cfg : Word) (s : State) : (s.checkCfg cfg).srckind = s.srckind := rfl
@[simp] theorem State.checkCfg_rem (cfg : Word) (s : State) : (s.checkCfg cfg).rem = s.rem := rfl
@[simp] theorem State.checkCfg_result (cfg : Word) (s : State) : (s.checkCfg cfg).result = s.result := rfl
@[simp] theorem State.checkCfg_tmo (cfg : Word) (s : State) : (s.checkCfg cfg).tmo = s.tmo := rfl
@[simp] theorem State.checkCfg_issued (cfg : Word) (s : State) : (s.checkCfg cfg).issued = s.issued := rfl
@[simp] theorem State.checkCfg_initDone (cfg : Word) (s : State) : (s.checkCfg cfg).initDone = s.initDone := rfl
@[simp] theorem State.checkCfg_quick (cfg : Word) (s : State) : (s.checkCfg cfg).quick = s.quick := rfl
@[simp] theorem State.checkCfg_boSeen (cfg : Word) (s : State) : (s.checkCfg cfg).boSeen = s.boSeen := rfl
@[simp] theorem State.checkCfg_routine (cfg : Word) (s : State) : (s.checkCfg cfg).routine = s.routine := rfl
@[simp] theorem State.checkCfg_shadow (cfg : Word) (s : State) : (s.checkCfg cfg).shadow = s.shadow := rfl
@[simp] theorem State.checkCfg_fault (cfg : Word) (s : State) : (s.checkCfg cfg).fault = s.fault := rfl
@[simp] theorem State.checkCfg_crcSr (cfg : Word) (s : State) : (s.checkCfg cfg).crcSr = crcOfItems s.par.crcInit (s.cfgItems cfg) := rfl
@[simp] theorem State.checkCfg_mem (cfg : Word) (s : State) : (s.checkCfg cfg).mem = s.mem := rfl
@[simp] theorem State.checkCfg_pos (cfg : Word) (s : State) : (s.checkCfg cfg).pos = s.pos := rfl
@[simp] theorem State.checkCfg_ret (cfg : Word) (s : State) : (s.checkCfg cfg).ret = s.ret := rfl
@[simp] theorem State.checkCfg_det (cfg : Word) (s : State) : (s.checkCfg cfg).det = s.det := rfl
@[simp] theorem State.checkCfg_dem (cfg : Word) (s : State) : (s.checkCfg cfg).dem = s.dem := rfl
@[simp] theorem State.checkCfg_callbacks (cfg : Word) (s : State) : (s.checkCfg cfg).callbacks = s.callbacks := rfl
@[simp] theorem State.checkCfg_loaded (cfg : Word) (s : State) : (s.checkCfg cfg).loaded = s.loaded := rfl
@[simp] theorem State.checkCfg_inputs (cfg : Word) (s : State) : (s.checkCfg cfg).inputs = s.inputs := rfl

@[simp] theorem State.fillShadow_par (k : Routine) (s : State) : (s.fillShadow k).par = s.par := rfl
@[simp] theorem State.fillShadow_coll (k : Routine) (s : State) : (s.fillShadow k).coll = s.coll := rfl
@[simp] theorem State.fillShadow_accerr (k : Routine) (s : State) : (s.fillShadow k).accerr = s.accerr := rfl
@[simp] theorem State.fillShadow_pviol (k : Routine) (s : State) : (s.fillShadow k).pviol = s.pviol := rfl
@[simp] theorem State.fillShadow_cstat (k : Routine) (s : State) : (s.fillShadow k).cstat = s.cstat := rfl
@[simp] theorem State.fillShadow_configRest (k : Routine) (s : State) : (s.fillShadow k).configRest = s.configRest := rfl
@[simp] theorem State.fillShadow_cmdparam (k : Routine) (s : State) : (s.fillShadow k).cmdparam = s.cmdparam := rfl
@[simp] theorem State.fillShadow_stage (k : Routine) (s : State) : (s.fillShadow k).stage = s.stage := rfl
@[simp] theorem State.fillShadow_mode (k : Routine) (s : State) : (s.fillShadow k).mode = s.mode := rfl
@[simp] theorem State.fillShadow_inflight (k : Routine) (s : State) : (s.fillShadow k).inflight = s.inflight := rfl
@[simp] theorem State.fillShadow_boLatch (k : Routine) (s : State) : (s.fillShadow k).boLatch = s.boLatch := rfl
@[simp] theorem State.fillShadow_pend (k : Routine) (s : State) : (s.fillShadow k).pend = s.pend := rfl
@[simp] theorem State.fillShadow_nv (k : Routine) (s : State) : (s.fillShadow k).nv = s.nv := rfl
@[simp] theorem State.fillShadow_qdirty (k : Routine) (s : State) : (s.fillShadow k).qdirty = s.qdirty := rfl
@[simp] theorem State.fillShadow_dst (k : Routine) (s : State) : (s.fillShadow k).dst = s.dst := rfl
@[simp] theorem State.fillShadow_src (k : Routine) (s : State) : (s.fillShadow k).src = s.src := rfl
@[simp] theorem State.fillShadow_srckind (k : Routine) (s : State) : (s.fillShadow k).srckind = s.srckind := rfl
@[simp] theorem State.fillShadow_rem (k : Routine) (s : State) : (s.fillShadow k).rem = s.rem := rfl
@[simp] theorem State.fillShadow_result (k : Routine) (s : State) : (s.fillShadow k).result = s.result := rfl
@[simp] theorem State.fillShadow_tmo (k : Routine) (s : State) : (s.fillShadow k).tmo = s.tmo := rfl
@[simp] theorem State.fillShadow_issued (k : Routine) (s : State) : (s.fillShadow k).issued = s.issued := rfl
@[simp] theorem State.fillShadow_initDone (k : Routine) (s : State) : (s.fillShadow k).initDone = s.initDone := rfl
@[simp] theorem State.fillShadow_quick (k : Routine) (s : State) : (s.fillShadow k).quick = s.quick := rfl
@[simp] theorem State.fillShadow_boSeen (k : Routine) (s : State) : (s.fillShadow k).boSeen = s.boSeen := rfl
@[simp] theorem State.fillShadow_routine (k : Routine) (s : State) : (s.fillShadow k).routine = k := rfl
@[simp] theorem State.fillShadow_shadow (k : Routine) (s : State) : (s.fillShadow k).shadow = shadowImage s.par k := rfl
@[simp] theorem State.fillShadow_fault (k : Routine) (s : State) : (s.fillShadow k).fault = s.fault := rfl
@[simp] theorem State.fillShadow_crcSr (k : Routine) (s : State) : (s.fillShadow k).crcSr = s.crcSr := rfl
@[simp] theorem State.fillShadow_mem (k : Routine) (s : State) : (s.fillShadow k).mem = s.mem := rfl
@[simp] theorem State.fillShadow_pos (k : Routine) (s : State) : (s.fillShadow k).pos = s.pos := rfl
@[simp] theorem State.fillShadow_ret (k : Routine) (s : State) : (s.fillShadow k).ret = s.ret := rfl
@[simp] theorem State.fillShadow_det (k : Routine) (s : State) : (s.fillShadow k).det = s.det := rfl
@[simp] theorem State.fillShadow_dem (k : Routine) (s : State) : (s.fillShadow k).dem = s.dem := rfl
@[simp] theorem State.fillShadow_callbacks (k : Routine) (s : State) : (s.fillShadow k).callbacks = s.callbacks := rfl
@[simp] theorem State.fillShadow_loaded (k : Routine) (s : State) : (s.fillShadow k).loaded = s.loaded := rfl
@[simp] theorem State.fillShadow_inputs (k : Routine) (s : State) : (s.fillShadow k).inputs = s.inputs := rfl

@[simp] theorem State.signalDet_par (op : Byte) (c : DetCode) (s : State) : (s.signalDet op c).par = s.par := rfl
@[simp] theorem State.signalDet_coll (op : Byte) (c : DetCode) (s : State) : (s.signalDet op c).coll = s.coll := rfl
@[simp] theorem State.signalDet_accerr (op : Byte) (c : DetCode) (s : State) : (s.signalDet op c).accerr = s.accerr := rfl
@[simp] theorem State.signalDet_pviol (op : Byte) (c : DetCode) (s : State) : (s.signalDet op c).pviol = s.pviol := rfl
@[simp] theorem State.signalDet_cstat (op : Byte) (c : DetCode) (s : State) : (s.signalDet op c).cstat = s.cstat := rfl
@[simp] theorem State.signalDet_configRest (op : Byte) (c : DetCode) (s : State) : (s.signalDet op c).configRest = s.configRest := rfl
@[simp] theorem State.signalDet_cmdparam (op : Byte) (c : DetCode) (s : State) : (s.signalDet op c).cmdparam = s.cmdparam := rfl
@[simp] theorem State.signalDet_stage (op : Byte) (c : DetCode) (s : State) : (s.signalDet op c).stage = s.stage := rfl
@[simp] theorem State.signalDet_mode (op : Byte) (c : DetCode) (s : State) : (s.signalDet op c).mode = s.mode := rfl
@[simp] theorem State.signalDet_inflight (op : Byte) (c : DetCode) (s : State) : (s.signalDet op c).inflight = s.inflight := rfl
@[simp] theorem State.signalDet_boLatch (op : Byte) (c : DetCode) (s : State) : (s.signalDet op c).boLatch = s.boLatch := rfl
@[simp] theorem State.signalDet_pend (op : Byte) (c : DetCode) (s : State) : (s.signalDet op c).pend = s.pend := rfl
@[simp] theorem State.signalDet_nv (op : Byte) (c : DetCode) (s : State) : (s.signalDet op c).nv = s.nv := rfl
@[simp] theorem State.signalDet_qdirty (op : Byte) (c : DetCode) (s : State) : (s.signalDet op c).qdirty = s.qdirty := rfl
@[simp] theorem State.signalDet_dst (op : Byte) (c : DetCode) (s : State) : (s.signalDet op c).dst = s.dst := rfl
@[simp] theorem State.signalDet_src (op : Byte) (c : DetCode) (s : State) : (s.signalDet op c).src = s.src := rfl
@[simp] theorem State.signalDet_srckind (op : Byte) (c : DetCode) (s : State) : (s.signalDet op c).srckind = s.srckind := rfl
@[simp] theorem State.signalDet_rem (op : Byte) (c : DetCode) (s : State) : (s.signalDet op c).rem = s.rem := rfl
@[simp] theorem State.signalDet_result (op : Byte) (c : DetCode) (s : State) : (s.signalDet op c).result = s.result := rfl
@[simp] theorem State.signalDet_tmo (op : Byte) (c : DetCode) (s : State) : (s.signalDet op c).tmo = s.tmo := rfl
@[simp] theorem State.signalDet_issued (op : Byte) (c : DetCode) (s : State) : (s.signalDet op c).issued = s.issued := rfl
@[simp] theorem State.signalDet_initDone (op : Byte) (c : DetCode) (s : State) : (s.signalDet op c).initDone = s.initDone := rfl
@[simp] theorem State.signalDet_quick (op : Byte) (c : DetCode) (s : State) : (s.signalDet op c).quick = s.quick := rfl
@[simp] theorem State.signalDet_boSeen (op : Byte) (c : DetCode) (s : State) : (s.signalDet op c).boSeen = s.boSeen := rfl
@[simp] theorem State.signalDet_routine (op : Byte) (c : DetCode) (s : State) : (s.signalDet op c).routine = s.routine := rfl
@[simp] theorem State.signalDet_shadow (op : Byte) (c : DetCode) (s : State) : (s.signalDet op c).shadow = s.shadow := rfl
@[simp] theorem State.signalDet_fault (op : Byte) (c : DetCode) (s : State) : (s.signalDet op c).fault = s.fault := rfl
@[simp] theorem State.signalDet_crcSr (op : Byte) (c : DetCode) (s : State) : (s.signalDet op c).crcSr = s.crcSr := rfl
@[simp] theorem State.signalDet_mem (op : Byte) (c : DetCode) (s : State) : (s.signalDet op c).mem = s.mem := rfl
@[simp] theorem State.signalDet_pos (op : Byte) (c : DetCode) (s : State) : (s.signalDet op c).pos = s.pos := rfl
@[simp] theorem State.signalDet_ret (op : Byte) (c : DetCode) (s : State) : (s.signalDet op c).ret = s.ret := rfl
@[simp] theorem State.signalDet_det (op : Byte) (c : DetCode) (s : State) : (s.signalDet op c).det = if s.par.det then s.det ++ [⟨s.par.detModule, s.par.detInstance, op, c⟩] else s.det := rfl
@[simp] theorem State.signalDet_dem (op : Byte) (c : DetCode) (s : State) : (s.signalDet op c).dem = s.dem := rfl
@[simp] theorem State.signalDet_callbacks (op : Byte) (c : DetCode) (s : State) : (s.signalDet op c).callbacks = s.callbacks := rfl
@[simp] theorem State.signalDet_loaded (op : Byte) (c : DetCode) (s : State) : (s.signalDet op c).loaded = s.loaded := rfl
@[simp] theorem State.signalDet_inputs (op : Byte) (c : DetCode) (s : State) : (s.signalDet op c).inputs = s.inputs := rfl

@[simp] theorem State.signalDem_par (id : DemId) (failed : Bool) (s : State) : (s.signalDem id failed).par = s.par := rfl
@[simp] theorem State.signalDem_coll (id : DemId) (failed : Bool) (s : State) : (s.signalDem id failed).coll = s.coll := rfl
@[simp] theorem State.signalDem_accerr (id : DemId) (failed : Bool) (s : State) : (s.signalDem id failed).accerr = s.accerr := rfl
@[simp] theorem State.signalDem_pviol (id : DemId) (failed : Bool) (s : State) : (s.signalDem id failed).pviol = s.pviol := rfl
@[simp] theorem State.signalDem_cstat (id : DemId) (failed : Bool) (s : State) : (s.signalDem id failed).cstat = s.cstat := rfl
@[simp] theorem State.signalDem_configRest (id : DemId) (failed : Bool) (s : State) : (s.signalDem id failed).configRest = s.configRest := rfl
@[simp] theorem State.signalDem_cmdparam (id : DemId) (failed : Bool) (s : State) : (s.signalDem id failed).cmdparam = s.cmdparam := rfl
@[simp] theorem State.signalDem_stage (id : DemId) (failed : Bool) (s : State) : (s.signalDem id failed).stage = s.stage := rfl
@[simp] theorem State.signalDem_mode (id : DemId) (failed : Bool) (s : State) : (s.signalDem id failed).mode = s.mode := rfl
@[simp] theorem State.signalDem_inflight (id : DemId) (failed : Bool) (s : State) : (s.signalDem id failed).inflight = s.inflight := rfl
@[simp] theorem State.signalDem_boLatch (id : DemId) (failed : Bool) (s : State) : (s.signalDem id failed).boLatch = s.boLatch := rfl
@[simp] theorem State.signalDem_pend (id : DemId) (failed : Bool) (s : State) : (s.signalDem id failed).pend = s.pend := rfl
@[simp] theorem State.signalDem_nv (id : DemId) (failed : Bool) (s : State) : (s.signalDem id failed).nv = s.nv := rfl
@[simp] theorem State.signalDem_qdirty (id : DemId) (failed : Bool) (s : State) : (s.signalDem id failed).qdirty = s.qdirty := rfl
@[simp] theorem State.signalDem_dst (id : DemId) (failed : Bool) (s : State) : (s.signalDem id failed).dst = s.dst := rfl
@[simp] theorem State.signalDem_src (id : DemId) (failed : Bool) (s : State) : (s.signalDem id failed).src = s.src := rfl
@[simp] theorem State.signalDem_srckind (id : DemId) (failed : Bool) (s : State) : (s.signalDem id failed).srckind = s.srckind := rfl
@[simp] theorem State.signalDem_rem (id : DemId) (failed : Bool) (s : State) : (s.signalDem id failed).rem = s.rem := rfl
@[simp] theorem State.signalDem_result (id : DemId) (failed : Bool) (s : State) : (s.signalDem id failed).result = s.result := rfl
@[simp] theorem State.signalDem_tmo (id : DemId) (failed : Bool) (s : State) : (s.signalDem id failed).tmo = s.tmo := rfl
@[simp] theorem State.signalDem_issued (id : DemId) (failed : Bool) (s : State) : (s.signalDem id failed).issued = s.issued := rfl
@[simp] theorem State.signalDem_initDone (id : DemId) (failed : Bool) (s : State) : (s.signalDem id failed).initDone = s.initDone := rfl
@[simp] theorem State.signalDem_quick (id : DemId) (failed : Bool) (s : State) : (s.signalDem id failed).quick = s.quick := rfl
@[simp] theorem State.signalDem_boSeen (id : DemId) (failed : Bool) (s : State) : (s.signalDem id failed).boSeen = s.boSeen := rfl
@[simp] theorem State.signalDem_routine (id : DemId) (failed : Bool) (s : State) : (s.signalDem id failed).routine = s.routine := rfl
@[simp] theorem State.signalDem_shadow (id : DemId) (failed : Bool) (s : State) : (s.signalDem id failed).shadow = s.shadow := rfl
@[simp] theorem State.signalDem_fault (id : DemId) (failed : Bool) (s : State) : (s.signalDem id failed).fault = s.fault := rfl
@[simp] theorem State.signalDem_crcSr (id : DemId) (failed : Bool) (s : State) : (s.signalDem id failed).crcSr = s.crcSr := rfl
@[simp] theorem State.signalDem_mem (id : DemId) (failed : Bool) (s : State) : (s.signalDem id failed).mem = s.mem := rfl
@[simp] theorem State.signalDem_pos (id : DemId) (failed : Bool) (s : State) : (s.signalDem id failed).pos = s.pos := rfl
@[simp] theorem State.signalDem_ret (id : DemId) (failed : Bool) (s : State) : (s.signalDem id failed).ret = s.ret := rfl
@[simp] theorem State.signalDem_det (id : DemId) (failed : Bool) (s : State) : (s.signalDem id failed).det = s.det := rfl
@[simp] theorem State.signalDem_dem (id : DemId) (failed : Bool) (s : State) : (s.signalDem id failed).dem = if s.par.dem then s.dem ++ [⟨id, failed⟩] else s.dem := rfl
@[simp] theorem State.signalDem_callbacks (id : DemId) (failed : Bool) (s : State) : (s.signalDem id failed).callbacks = s.callbacks := rfl
@[simp] theorem State.signalDem_loaded (id : DemId) (failed : Bool) (s : State) : (s.signalDem id failed).loaded = s.loaded := rfl
@[simp] theorem State.signalDem_inputs (id : DemId) (failed : Bool) (s : State) : (s.signalDem id failed).inputs = s.inputs := rfl

@[simp] theorem State.reject_par (op : Byte) (c : DetCode) (n : Option Nat) (s : State) : (s.reject op c n).par = s.par := rfl
@[simp] theorem State.reject_coll (op : Byte) (c : DetCode) (n : Option Nat) (s : State) : (s.reject op c n).coll = s.coll := rfl
@[simp] theorem State.reject_accerr (op : Byte) (c : DetCode) (n : Option Nat) (s : State) : (s.reject op c n).accerr = s.accerr := rfl
@[simp] theorem State.reject_pviol (op : Byte) (c : DetCode) (n : Option Nat) (s : State) : (s.reject op c n).pviol = s.pviol := rfl
@[simp] theorem State.reject_cstat (op : Byte) (c : DetCode) (n : Option Nat) (s : State) : (s.reject op c n).cstat = s.cstat := rfl
@[simp] theorem State.reject_configRest (op : Byte) (c : DetCode) (n : Option Nat) (s : State) : (s.reject op c n).configRest = s.configRest := rfl
@[simp] theorem State.reject_cmdparam (op : Byte) (c : DetCode) (n : Option Nat) (s : State) : (s.reject op c n).cmdparam = s.cmdparam := rfl
@[simp] theorem State.reject_stage (op : Byte) (c : DetCode) (n : Option Nat) (s : State) : (s.reject op c n).stage = s.stage := rfl
@[simp] theorem State.reject_mode (op : Byte) (c : DetCode) (n : Option Nat) (s : State) : (s.reject op c n).mode = s.mode := rfl
@[simp] theorem State.reject_inflight (op : Byte) (c : DetCode) (n : Option Nat) (s : State) : (s.reject op c n).inflight = s.inflight := rfl
@[simp] theorem State.reject_boLatch (op : Byte) (c : DetCode) (n : Option Nat) (s : State) : (s.reject op c n).boLatch = s.boLatch := rfl
@[simp] theorem State.reject_pend (op : Byte) (c : DetCode) (n : Option Nat) (s : State) : (s.reject op c n).pend = s.pend := rfl
@[simp] theorem State.reject_nv (op : Byte) (c : DetCode) (n : Option Nat) (s : State) : (s.reject op c n).nv = s.nv := rfl
@[simp] theorem State.reject_qdirty (op : Byte) (c : DetCode) (n : Option Nat) (s : State) : (s.reject op c n).qdirty = s.qdirty := rfl
@[simp] theorem State.reject_dst (op : Byte) (c : DetCode) (n : Option Nat) (s : State) : (s.reject op c n).dst = s.dst := rfl
@[simp] theorem State.reject_src (op : Byte) (c : DetCode) (n : Option Nat) (s : State) : (s.reject op c n).src = s.src := rfl
@[simp] theorem State.reject_srckind (op : Byte) (c : DetCode) (n : Option Nat) (s : State) : (s.reject op c n).srckind = s.srckind := rfl
@[simp] theorem State.reject_rem (op : Byte) (c : DetCode) (n : Option Nat) (s : State) : (s.reject op c n).rem = s.rem := rfl
@[simp] theorem State.reject_result (op : Byte) (c : DetCode) (n : Option Nat) (s : State) : (s.reject op c n).result = s.result := rfl
@[simp] theorem State.reject_tmo (op : Byte) (c : DetCode) (n : Option Nat) (s : State) : (s.reject op c n).tmo = s.tmo := rfl
@[simp] theorem State.reject_issued (op : Byte) (c : DetCode) (n : Option Nat) (s : State) : (s.reject op c n).issued = s.issued := rfl
@[simp] theorem State.reject_initDone (op : Byte) (c : DetCode) (n : Option Nat) (s : State) : (s.reject op c n).initDone = s.initDone := rfl
@[simp] theorem State.reject_quick (op : Byte) (c : DetCode) (n : Option Nat) (s : State) : (s.reject op c n).quick = s.quick := rfl
@[simp] theorem State.reject_boSeen (op : Byte) (c : DetCode) (n : Option Nat) (s : State) : (s.reject op c n).boSeen = s.boSeen := rfl
@[simp] theorem State.reject_routine (op : Byte) (c : DetCode) (n : Option Nat) (s : State) : (s.reject op c n).routine = s.routine := rfl
@[simp] theorem State.reject_shadow (op : Byte) (c : DetCode) (n : Option Nat) (s : State) : (s.reject op c n).shadow = s.shadow := rfl
@[simp] theorem State.reject_fault (op : Byte) (c : DetCode) (n : Option Nat) (s : State) : (s.reject op c n).fault = s.fault := rfl
@[simp] theorem State.reject_crcSr (op : Byte) (c : DetCode) (n : Option Nat) (s : State) : (s.reject op c n).crcSr = s.crcSr := rfl
@[simp] theorem State.reject_mem (op : Byte) (c : DetCode) (n : Option Nat) (s : State) : (s.reject op c n).mem = s.mem := rfl
@[simp] theorem State.reject_pos (op : Byte) (c : DetCode) (n : Option Nat) (s : State) : (s.reject op c n).pos = .idle := rfl
@[simp] theorem State.reject_ret (op : Byte) (c : DetCode) (n : Option Nat) (s : State) : (s.reject op c n).ret = some ⟨.rejected, n⟩ := rfl
@[simp] theorem State.reject_det (op : Byte) (c : DetCode) (n : Option Nat) (s : State) : (s.reject op c n).det = if s.par.det then s.det ++ [⟨s.par.detModule, s.par.detInstance, op, c⟩] else s.det := rfl
@[simp] theorem State.reject_dem (op : Byte) (c : DetCode) (n : Option Nat) (s : State) : (s.reject op c n).dem = s.dem := rfl
@[simp] theorem State.reject_callbacks (op : Byte) (c : DetCode) (n : Option Nat) (s : State) : (s.reject op c n).callbacks = s.callbacks := rfl
@[simp] theorem State.reject_loaded (op : Byte) (c : DetCode) (n : Option Nat) (s : State) : (s.reject op c n).loaded = s.loaded := rfl
@[simp] theorem State.reject_inputs (op : Byte) (c : DetCode) (n : Option Nat) (s : State) : (s.reject op c n).inputs = s.inputs := rfl

@[simp] theorem State.countDown_par (s : State) : s.countDown.par = s.par := rfl
@[simp] theorem State.countDown_coll (s : State) : s.countDown.coll = s.coll := rfl
@[simp] theorem State.countDown_accerr (s : State) : s.countDown.accerr = s.accerr := rfl
@[simp] theorem State.countDown_pviol (s : State) : s.countDown.pviol = s.pviol := rfl
@[simp] theorem State.countDown_cstat (s : State) : s.countDown.cstat = s.cstat := rfl
@[simp] theorem State.countDown_configRest (s : State) : s.countDown.configRest = s.configRest := rfl
@[simp] theorem State.countDown_cmdparam (s : State) : s.countDown.cmdparam = s.cmdparam := rfl
@[simp] theorem State.countDown_stage (s : State) : s.countDown.stage = s.stage := rfl
@[simp] theorem State.countDown_mode (s : State) : s.countDown.mode = s.mode := rfl
@[simp] theorem State.countDown_inflight (s : State) : s.countDown.inflight = s.inflight := rfl
@[simp] theorem State.countDown_boLatch (s : State) : s.countDown.boLatch = s.boLatch := rfl
@[simp] theorem State.countDown_pend (s : State) : s.countDown.pend = s.pend := rfl
@[simp] theorem State.countDown_nv (s : State) : s.countDown.nv = s.nv := rfl
@[simp] theorem State.countDown_qdirty (s : State) : s.countDown.qdirty = s.qdirty := rfl
@[simp] theorem State.countDown_dst (s : State) : s.countDown.dst = s.dst := rfl
@[simp] theorem State.countDown_src (s : State) : s.countDown.src = s.src := rfl
@[simp] theorem State.countDown_srckind (s : State) : s.countDown.srckind = s.srckind := rfl
@[simp] theorem State.countDown_rem (s : State) : s.countDown.rem = s.rem := rfl
@[simp] theorem State.countDown_result (s : State) : s.countDown.result = s.result := rfl
@[simp] theorem State.countDown_tmo (s : State) : s.countDown.tmo = if s.tmo = 0#32 then 0#32 else s.tmo - 1#32 := rfl
@[simp] theorem State.countDown_issued (s : State) : s.countDown.issued = s.issued := rfl
@[simp] theorem State.countDown_initDone (s : State) : s.countDown.initDone = s.initDone := rfl
@[simp] theorem State.countDown_quick (s : State) : s.countDown.quick = s.quick := rfl
@[simp] theorem State.countDown_boSeen (s : State) : s.countDown.boSeen = s.boSeen := rfl
@[simp] theorem State.countDown_routine (s : State) : s.countDown.routine = s.routine := rfl
@[simp] theorem State.countDown_shadow (s : State) : s.countDown.shadow = s.shadow := rfl
@[simp] theorem State.countDown_fault (s : State) : s.countDown.fault = s.fault := rfl
@[simp] theorem State.countDown_crcSr (s : State) : s.countDown.crcSr = s.crcSr := rfl
@[simp] theorem State.countDown_mem (s : State) : s.countDown.mem = s.mem := rfl
@[simp] theorem State.countDown_pos (s : State) : s.countDown.pos = s.pos := rfl
@[simp] theorem State.countDown_ret (s : State) : s.countDown.ret = s.ret := rfl
@[simp] theorem State.countDown_det (s : State) : s.countDown.det = s.det := rfl
@[simp] theorem State.countDown_dem (s : State) : s.countDown.dem = s.dem := rfl
@[simp] theorem State.countDown_callbacks (s : State) : s.countDown.callbacks = s.callbacks := rfl
@[simp] theorem State.countDown_loaded (s : State) : s.countDown.loaded = s.loaded := rfl
@[simp] theorem State.countDown_inputs (s : State) : s.countDown.inputs = s.inputs := rfl

@[simp] theorem State.callCallback_par (s : State) : s.callCallback.par = s.par := rfl
@[simp] theorem State.callCallback_coll (s : State) : s.callCallback.coll = s.coll := rfl
@[simp] theorem State.callCallback_accerr (s : State) : s.callCallback.accerr = s.accerr := rfl
@[simp] theorem State.callCallback_pviol (s : State) : s.callCallback.pviol = s.pviol := rfl
@[simp] theorem State.callCallback_cstat (s : State) : s.callCallback.cstat = s.cstat := rfl
@[simp] theorem State.callCallback_configRest (s : State) : s.callCallback.configRest = s.configRest := rfl
@[simp] theorem State.callCallback_cmdparam (s : State) : s.callCallback.cmdparam = s.cmdparam := rfl
@[simp] theorem State.callCallback_stage (s : State) : s.callCallback.stage = s.stage := rfl
@[simp] theorem State.callCallback_mode (s : State) : s.callCallback.mode = s.mode := rfl
@[simp] theorem State.callCallback_inflight (s : State) : s.callCallback.inflight = s.inflight := rfl
@[simp] theorem State.callCallback_boLatch (s : State) : s.callCallback.boLatch = s.boLatch := rfl
@[simp] theorem State.callCallback_pend (s : State) : s.callCallback.pend = s.pend := rfl
@[simp] theorem State.callCallback_nv (s : State) : s.callCallback.nv = s.nv := rfl
@[simp] theorem State.callCallback_qdirty (s : State) : s.callCallback.qdirty = s.qdirty := rfl
@[simp] theorem State.callCallback_dst (s : State) : s.callCallback.dst = s.dst := rfl
@[simp] theorem State.callCallback_src (s : State) : s.callCallback.src = s.src := rfl
@[simp] theorem State.callCallback_srckind (s : State) : s.callCallback.srckind = s.srckind := rfl
@[simp] theorem State.callCallback_rem (s : State) : s.callCallback.rem = s.rem := rfl
@[simp] theorem State.callCallback_result (s : State) : s.callCallback.result = s.result := rfl
@[simp] theorem State.callCallback_tmo (s : State) : s.callCallback.tmo = s.tmo := rfl
@[simp] theorem State.callCallback_issued (s : State) : s.callCallback.issued = s.issued := rfl
@[simp] theorem State.callCallback_initDone (s : State) : s.callCallback.initDone = s.initDone := rfl
@[simp] theorem State.callCallback_quick (s : State) : s.callCallback.quick = s.quick := rfl
@[simp] theorem State.callCallback_boSeen (s : State) : s.callCallback.boSeen = s.boSeen := rfl
@[simp] theorem State.callCallback_routine (s : State) : s.callCallback.routine = s.routine := rfl
@[simp] theorem State.callCallback_shadow (s : State) : s.callCallback.shadow = s.shadow := rfl
@[simp] theorem State.callCallback_fault (s : State) : s.callCallback.fault = s.fault := rfl
@[simp] theorem State.callCallback_crcSr (s : State) : s.callCallback.crcSr = s.crcSr := rfl
@[simp] theorem State.callCallback_mem (s : State) : s.callCallback.mem = s.mem := rfl
@[simp] theorem State.callCallback_pos (s : State) : s.callCallback.pos = s.pos := rfl
@[simp] theorem State.callCallback_ret (s : State) : s.callCallback.ret = s.ret := rfl
@[simp] theorem State.callCallback_det (s : State) : s.callCallback.det = s.det := rfl
@[simp] theorem State.callCallback_dem (s : State) : s.callCallback.dem = s.dem := rfl
@[simp] theorem State.callCallback_callbacks (s : State) : s.callCallback.callbacks = if s.par.callback then s.callbacks + 1 else s.callbacks := rfl
@[simp] theorem State.callCallback_loaded (s : State) : s.callCallback.loaded = s.loaded := rfl
@[simp] theorem State.callCallback_inputs (s : State) : s.callCallback.inputs = s.inputs := rfl

/-! The views of the flags and of the mode after each update. -/

@[simp] theorem State.raise_busy (r : Fault) (s : State) : (s.raise r).busy = s.busy := by simp [State.busy]
@[simp] theorem State.raise_ready (r : Fault) (s : State) : (s.raise r).ready = s.ready := by simp [State.ready]
@[simp] theorem State.raise_quickMode (r : Fault) (s : State) : (s.raise r).quickMode = s.quickMode := by simp [State.quickMode]
@[simp] theorem State.finish_busy (st : Status) (n : Option Nat) (s : State) : (s.finish st n).busy = s.busy := by simp [State.busy]
@[simp] theorem State.finish_ready (st : Status) (n : Option Nat) (s : State) : (s.finish st n).ready = s.ready := by simp [State.ready]
@[simp] theorem State.finish_quickMode (st : Status) (n : Option Nat) (s : State) : (s.finish st n).quickMode = s.quickMode := by simp [State.quickMode]
@[simp] theorem State.w1c_busy (s : State) : s.w1c.busy = s.busy := by simp [State.busy]
@[simp] theorem State.w1c_ready (s : State) : s.w1c.ready = s.ready := by simp [State.ready]
@[simp] theorem State.w1c_quickMode (s : State) : s.w1c.quickMode = s.quickMode := by simp [State.quickMode]
@[simp] theorem State.setSlot_busy (k : Fin 12) (v : Byte) (s : State) : (s.setSlot k v).busy = s.busy := by simp [State.busy]
@[simp] theorem State.setSlot_ready (k : Fin 12) (v : Byte) (s : State) : (s.setSlot k v).ready = s.ready := by simp [State.ready]
@[simp] theorem State.setSlot_quickMode (k : Fin 12) (v : Byte) (s : State) : (s.setSlot k v).quickMode = s.quickMode := by simp [State.quickMode]
@[simp] theorem State.startWait_busy (op : Byte) (w : WaitPoint) (s : State) : (s.startWait op w).busy = s.busy := by simp [State.busy]
@[simp] theorem State.startWait_ready (op : Byte) (w : WaitPoint) (s : State) : (s.startWait op w).ready = s.ready := by simp [State.ready]
@[simp] theorem State.startWait_quickMode (op : Byte) (w : WaitPoint) (s : State) : (s.startWait op w).quickMode = s.quickMode := by simp [State.quickMode]
@[simp] theorem State.advance_busy (n : Nat) (s : State) : (s.advance n).busy = s.busy := by simp [State.busy]
@[simp] theorem State.advance_ready (n : Nat) (s : State) : (s.advance n).ready = s.ready := by simp [State.ready]
@[simp] theorem State.advance_quickMode (n : Nat) (s : State) : (s.advance n).quickMode = s.quickMode := by simp [State.quickMode]
@[simp] theorem State.reloadTmo_busy (s : State) : s.reloadTmo.busy = s.busy := by simp [State.busy]
@[simp] theorem State.reloadTmo_ready (s : State) : s.reloadTmo.ready = s.ready := by simp [State.ready]
@[simp] theorem State.reloadTmo_quickMode (s : State) : s.reloadTmo.quickMode = s.quickMode := by simp [State.quickMode]
@[simp] theorem State.checkCfg_busy (cfg : Word) (s : State) : (s.checkCfg cfg).busy = s.busy := by simp [State.busy]
@[simp] theorem State.checkCfg_ready (cfg : Word) (s : State) : (s.checkCfg cfg).ready = s.ready := by simp [State.ready]
@[simp] theorem State.checkCfg_quickMode (cfg : Word) (s : State) : (s.checkCfg cfg).quickMode = s.quickMode := by simp [State.quickMode]
@[simp] theorem State.fillShadow_busy (k : Routine) (s : State) : (s.fillShadow k).busy = s.busy := by simp [State.busy]
@[simp] theorem State.fillShadow_ready (k : Routine) (s : State) : (s.fillShadow k).ready = s.ready := by simp [State.ready]
@[simp] theorem State.fillShadow_quickMode (k : Routine) (s : State) : (s.fillShadow k).quickMode = s.quickMode := by simp [State.quickMode]
@[simp] theorem State.signalDet_busy (op : Byte) (c : DetCode) (s : State) : (s.signalDet op c).busy = s.busy := by simp [State.busy]
@[simp] theorem State.signalDet_ready (op : Byte) (c : DetCode) (s : State) : (s.signalDet op c).ready = s.ready := by simp [State.ready]
@[simp] theorem State.signalDet_quickMode (op : Byte) (c : DetCode) (s : State) : (s.signalDet op c).quickMode = s.quickMode := by simp [State.quickMode]
@[simp] theorem State.signalDem_busy (id : DemId) (failed : Bool) (s : State) : (s.signalDem id failed).busy = s.busy := by simp [State.busy]
@[simp] theorem State.signalDem_ready (id : DemId) (failed : Bool) (s : State) : (s.signalDem id failed).ready = s.ready := by simp [State.ready]
@[simp] theorem State.signalDem_quickMode (id : DemId) (failed : Bool) (s : State) : (s.signalDem id failed).quickMode = s.quickMode := by simp [State.quickMode]
@[simp] theorem State.reject_busy (op : Byte) (c : DetCode) (n : Option Nat) (s : State) : (s.reject op c n).busy = s.busy := by simp [State.busy]
@[simp] theorem State.reject_ready (op : Byte) (c : DetCode) (n : Option Nat) (s : State) : (s.reject op c n).ready = s.ready := by simp [State.ready]
@[simp] theorem State.reject_quickMode (op : Byte) (c : DetCode) (n : Option Nat) (s : State) : (s.reject op c n).quickMode = s.quickMode := by simp [State.quickMode]
@[simp] theorem State.countDown_busy (s : State) : s.countDown.busy = s.busy := by simp [State.busy]
@[simp] theorem State.countDown_ready (s : State) : s.countDown.ready = s.ready := by simp [State.ready]
@[simp] theorem State.countDown_quickMode (s : State) : s.countDown.quickMode = s.quickMode := by simp [State.quickMode]
@[simp] theorem State.callCallback_busy (s : State) : s.callCallback.busy = s.busy := by simp [State.busy]
@[simp] theorem State.callCallback_ready (s : State) : s.callCallback.ready = s.ready := by simp [State.ready]
@[simp] theorem State.callCallback_quickMode (s : State) : s.callCallback.quickMode = s.quickMode := by simp [State.quickMode]

@[simp] theorem State.w1c_inError (s : State) : s.w1c.inError = s.cstat := by simp [State.inError]

/-! The views as conditions on the fields they are views of (10_state.md R34, R35). -/

theorem State.busy_eq (s : State) : s.busy = decide (s.inflight ≠ .none) := by
  unfold State.busy; split <;> simp_all

theorem State.ready_eq (s : State) : s.ready = decide (s.mode ≠ .offline) := by
  unfold State.ready; split <;> simp_all

theorem State.quickMode_eq (s : State) : s.quickMode = decide (s.mode ≠ .offline ∧ s.mode ≠ .normal) := by
  unfold State.quickMode; split <;> simp_all

end Sys2Proof.Machine
end

