-- ==== Sys2Proof/Laws/Ops.lean ====
section
/-! SUPPORT. For each shared operation, once, everything it can do. -/

namespace Sys2Proof.Machine

/-! The rest of an operation after a point that may have raised a fault. -/

@[simp] theorem State.ifSound_of_sound {s : State} (h : s.fault = none) (f : State → State) : s.ifSound f = f s := by
  simp [State.ifSound, h]

@[simp] theorem State.ifSound_raise (s : State) (r : Fault) (f : State → State) : (s.raise r).ifSound f = s.raise r := rfl

theorem State.ifSound_cases (s : State) (f : State → State) :
    (s.fault = none ∧ s.ifSound f = f s) ∨ (s.fault ≠ none ∧ s.ifSound f = s) := by
  unfold State.ifSound
  split <;> simp_all

/-! Invocation. -/

theorem State.invoke_of_callable {s : State} {op : Byte} (h : s.callable) (hp : opPresent s.par op = true)
    (body : State → State) : s.invoke op body = .next (body { s with ret := none }) := by
  simp [State.invoke, h.1, h.2, hp]

theorem State.invoke_cases {s t : State} {op : Byte} {body : State → State} (h : s.invoke op body = .next t) :
    s.fault = none ∧
      ((s.pos = .idle ∧ opPresent s.par op = true ∧ t = body { s with ret := none }) ∨
        (s.pos = .idle ∧ opPresent s.par op = false ∧ t = s.raise .opNotConfigured) ∨
        (s.pos ≠ .idle ∧ t = s.raise .reentry)) := by
  unfold State.invoke at h
  split at h
  · cases h
  · next hf =>
    refine ⟨hf, ?_⟩
    injection h with h
    subst h
    by_cases hp : s.pos = .idle
    · by_cases ho : opPresent s.par op <;> simp [hp, ho]
    · simp [hp]

theorem State.issueRaw_of_callable {s : State} (h : s.callable) (body : State → State) :
    s.issueRaw body = .next (body s) := by
  simp [State.issueRaw, h.1, h.2]

theorem State.issueRaw_cases {s t : State} {body : State → State} (h : s.issueRaw body = .next t) :
    s.fault = none ∧ ((s.pos = .idle ∧ t = body s) ∨ (s.pos ≠ .idle ∧ t = s.raise .reentry)) := by
  unfold State.issueRaw at h
  split at h
  · cases h
  · next hf =>
    refine ⟨hf, ?_⟩
    injection h with h
    subst h
    by_cases hp : s.pos = .idle <;> simp [hp]

/-- Invoking an operation of a faulted machine answers its fault (60_exceptions.md R408). -/
theorem State.invoke_of_fault {s : State} {r : Fault} (h : s.fault = some r) (op : Byte) (body : State → State) :
    s.invoke op body = .fault r := by
  simp [State.invoke, h]

theorem State.issueRaw_of_fault {s : State} {r : Fault} (h : s.fault = some r) (body : State → State) :
    s.issueRaw body = .fault r := by
  simp [State.issueRaw, h]

@[simp] theorem State.whenInit_of_init {s : State} (h : s.initDone = true) (op : Byte) (n : Option Nat)
    (body : State → State) : s.whenInit op n body = body s := by
  simp [State.whenInit, h]

@[simp] theorem State.whenInit_of_uninit {s : State} (h : s.initDone = false) (op : Byte) (n : Option Nat)
    (body : State → State) : s.whenInit op n body = s.reject op .uninit n := by
  simp [State.whenInit, h]

/-! The controller's registers. -/

theorem State.busy_iff (s : State) : s.busy = true ↔ s.inflight ≠ .none := by
  unfold State.busy
  split <;> simp_all

theorem State.not_busy_iff (s : State) : s.busy = false ↔ s.inflight = .none := by
  unfold State.busy
  split <;> simp_all

theorem State.ready_iff (s : State) : s.ready = true ↔ s.mode ≠ .offline := by
  unfold State.ready
  split <;> simp_all

@[simp] theorem State.writeParam_idle {s : State} (h : s.busy = false) (k : Fin 12) (v : Byte) :
    s.writeParam k v = s.setSlot k v := by
  simp [State.writeParam, h]

/-- What writing a command into idle slots leaves (40_dispatch_polling.md R122, R129). -/
theorem State.writeCommand_eq {s : State} (h : s.busy = false) (fcode : Byte) (len : Half) :
    s.writeCommand fcode len =
      if fcode = s.par.fcQuick then
        (((s.setSlot s.par.slotCmd s.par.cmdSetfr).setSlot s.par.slotFc fcode).setSlot s.par.slotLenHi
          (len.extractLsb' 8 8)).setSlot s.par.slotLenLo (len.extractLsb' 0 8)
      else (s.setSlot s.par.slotCmd s.par.cmdSetfr).setSlot s.par.slotFc fcode := by
  simp [State.writeCommand, h]

/-- Writing the slots of a command changes CMDPARAM alone. -/
theorem State.writeCommand_idle {s : State} (h : s.busy = false) (fcode : Byte) (len : Half) :
    ∃ v, s.writeCommand fcode len = { s with cmdparam := v } := by
  rw [State.writeCommand_eq h]
  split <;> exact ⟨_, rfl⟩

/-- Everything a launch can do (40_dispatch_polling.md R128, R141). -/
theorem State.launch_cases (s : State) :
    (∃ r, (r = .cmdReserved ∨ r = .launchWithError ∨ r = .cmdIllegalMode) ∧ s.launch = s.raise r) ∨
      (∃ c, commandOf s.par (s.slot s.par.slotFc) = some c ∧ (c = .setQuick → s.quickLegal s.lenSlot = true) ∧
        s.accerr = false ∧ s.pviol = false ∧
        s.launch = { s with cstat := false, inflight := .cmd c s.lenSlot }) := by
  unfold State.launch
  split
  · split
    · exact .inl ⟨_, .inl rfl, rfl⟩
    · next c hc =>
      split
      · exact .inl ⟨_, .inr (.inl rfl), rfl⟩
      · next he =>
        split
        · exact .inl ⟨_, .inr (.inr rfl), rfl⟩
        · next hq =>
          refine .inr ⟨c, hc, fun h => ?_, ?_, ?_, rfl⟩
          · by_contra hne
            exact hq ⟨h, by simpa using hne⟩
          · simp_all
          · simp_all
  · exact .inl ⟨_, .inl rfl, rfl⟩

/-- Everything the launch of a command word can do. -/
theorem State.issueCommand_cases (fcode : Byte) (len : Half) (s : State) :
    (s.busy = true ∧ s.issueCommand fcode len = s.raise .launchWhileBusy) ∨
      (s.busy = false ∧ ∃ v,
        ((∃ r, (r = .cmdReserved ∨ r = .launchWithError ∨ r = .cmdIllegalMode) ∧
            s.issueCommand fcode len = State.raise r { s with cmdparam := v }) ∨
          (∃ c l, (c = .setQuick → s.quickLegal l = true) ∧
            s.issueCommand fcode len = { s with cmdparam := v, cstat := false, inflight := .cmd c l }))) := by
  unfold State.issueCommand
  by_cases hb : s.busy
  · simp [hb]
  · have hb' : s.busy = false := by simpa using hb
    obtain ⟨v, hv⟩ := State.writeCommand_idle hb' fcode len
    refine .inr ⟨hb', v, ?_⟩
    have hidle : State.busy { s with cmdparam := v } = false := hb'
    have hclear : State.clearFlags launchMask { s with cmdparam := v } = { s with cmdparam := v } := by
      simp [State.clearFlags, launchMask]
    have hw : State.writeStatus launchMask { s with cmdparam := v } = State.launch { s with cmdparam := v } := by
      simp only [State.writeStatus, hclear, hidle]
      rfl
    rw [if_neg hb, hv, hw]
    rcases State.launch_cases { s with cmdparam := v } with ⟨r, hr, e⟩ | ⟨c, -, hc, -, -, e⟩
    · exact .inl ⟨r, hr, e⟩
    · exact .inr ⟨c, _, hc, e⟩

/-- Everything DISPATCH up to its wait can do (40_dispatch_polling.md R122): refused while busy, a fault at the launch, or a
command in flight with the flags clear. -/
theorem State.dispatchCommand_cases (op : Byte) (w : WaitPoint) (fcode : Byte) (len : Half) {s : State}
    (hs : s.fault = none) :
    (s.busy = true ∧ s.dispatchCommand op w fcode len = s.raise .launchWhileBusy) ∨
      (s.busy = false ∧ ∃ v,
        ((∃ r, s.dispatchCommand op w fcode len = State.raise r { s.w1c with cmdparam := v }) ∨
          (∃ c l, (c = .setQuick → s.quickLegal l = true) ∧
            s.dispatchCommand op w fcode len =
              State.startWait op w { s.w1c with cmdparam := v, cstat := false, inflight := .cmd c l }))) := by
  unfold State.dispatchCommand
  by_cases hb : s.busy
  · simp [hb]
  · have hb' : s.busy = false := by simpa using hb
    refine .inr ⟨hb', ?_⟩
    rw [if_neg hb]
    rcases State.issueCommand_cases fcode len s.w1c with ⟨h, -⟩ | ⟨-, v, h⟩
    · simp [hb'] at h
    · refine ⟨v, ?_⟩
      rcases h with ⟨r, -, e⟩ | ⟨c, l, hc, e⟩
      · exact .inl ⟨r, by rw [e, State.ifSound_raise]⟩
      · refine .inr ⟨c, l, hc, ?_⟩
        rw [e, State.ifSound_of_sound]
        simpa using hs

/-- Setting RES_PEND changes CMDPARAM alone. -/
theorem State.setSlots_eq (ks : List (Fin 12)) (bs : List Byte) (s : State) :
    ∃ v, State.setSlots ks bs s = { s with cmdparam := v } := by
  induction ks generalizing bs s with
  | nil => exact ⟨_, rfl⟩
  | cons k ks ih =>
    cases bs with
    | nil => exact ⟨_, rfl⟩
    | cons b bs =>
      obtain ⟨v, hv⟩ := ih bs (s.setSlot k b)
      exact ⟨v, hv⟩

theorem State.completeQuery_eq (d : FcDraw) (s : State) : ∃ v, s.completeQuery d = { s with cmdparam := v } := by
  obtain ⟨v, h⟩ := State.setSlots_eq s.par.slotPend (pendResult s.par.pendBytes s.pend d.resPend)
    (s.setSlot s.par.slotBo (boValue s.par s.boLatch))
  exact ⟨v, h⟩

theorem State.failQuery_eq (d : FcDraw) (s : State) : ∃ v, s.failQuery d = { s with cmdparam := v } := by
  obtain ⟨v, h⟩ := State.setSlots_eq s.par.slotPend (drawn s.par.pendBytes d.resPend) (s.setSlot s.par.slotBo d.resBo)
  exact ⟨v, h⟩

/-! The poll budget. -/

/-- The budget has run out exactly where at most one poll was left (40_dispatch_polling.md R136, 41_write_paths.md R172). -/
theorem State.countDown_eq_zero (s : State) : s.countDown.tmo = 0#32 ↔ s.tmo.toNat ≤ 1 := by
  rw [State.countDown_tmo]
  split
  · simp_all
  · bv_omega

/-- A budget that has not run out loses one poll. -/
theorem State.countDown_of_pos {s : State} (h : s.tmo ≠ 0#32) : s.countDown = { s with tmo := s.tmo - 1#32 } := by
  simp [State.countDown, h]

/-! Page writes. -/

/-- A page issue that passes its checks (40_dispatch_polling.md R134). -/
theorem State.pagePrecheck_none {a : Word} {n : Nat} {s : State} (h : s.pagePrecheck a n = none) :
    s.busy = false ∧ s.ready = true ∧ a.toNat + n ≤ s.par.eeeSize ∧ (n = 4 → a.toNat % 4 = 0) ∧
      (s.quickMode = true → n = 4) ∧ s.routineMissing = false := by
  unfold State.pagePrecheck at h
  split at h; · cases h
  split at h; · cases h
  split at h; · cases h
  split at h; · cases h
  split at h; · cases h
  split at h; · cases h
  simp_all

theorem State.pagePrecheck_of {a : Word} {n : Nat} {s : State} (hb : s.busy = false) (hr : s.ready = true)
    (hs : a.toNat + n ≤ s.par.eeeSize) (ha : n = 4 → a.toNat % 4 = 0) (hq : s.quickMode = true → n = 4)
    (hm : s.routineMissing = false) : s.pagePrecheck a n = none := by
  unfold State.pagePrecheck
  rw [if_neg (by simp [hb]), if_neg (by simp [hr]), if_neg (by omega), if_neg (by tauto), if_neg (by tauto),
    if_neg (by simp [hm])]

/-- Everything a page issue can do (40_dispatch_polling.md R130, R131). -/
theorem State.issuePage_cases (a : Word) (bytes : List Byte) (s : State) :
    (∃ r, s.pagePrecheck a bytes.length = some r ∧ s.issuePage a bytes = s.raise r) ∨
      (s.pagePrecheck a bytes.length = none ∧
        s.issuePage a bytes =
          { s.w1c with
            stage := Mem.writeBytes s.stage a.toNat bytes, cstat := false, inflight := .page a bytes.length }) := by
  unfold State.issuePage
  split
  · exact .inl ⟨_, ‹_›, rfl⟩
  · exact .inr ⟨‹_›, rfl⟩

@[simp] theorem State.length_pageBytes (n : Nat) (s : State) : (s.pageBytes n).length = n := by
  unfold State.pageBytes
  split <;> simp

theorem pageSize_cases (d r : Word) : (pageSize d r = 4 ∧ d.toNat % 4 = 0 ∧ 4 ≤ r.toNat) ∨
    (pageSize d r = 1 ∧ ¬ (d.toNat % 4 = 0 ∧ 4 ≤ r.toNat)) := by
  unfold pageSize
  split <;> simp_all

/-! The input check. -/

/-- What CHECK_JOB has established when it accepts (60_exceptions.md R402). -/
theorem State.checkJob_accept {a len : Word} {ptr : Option Word} {s : State} (h : s.checkJob a len ptr = .accept) :
    s.initDone = true ∧ a.toNat < s.par.eeeSize ∧ len ≠ 0#32 ∧ a.toNat + len.toNat ≤ s.par.eeeSize ∧
      s.result ≠ .pending ∧
      ∀ q, ptr = some q → q ≠ 0#32 ∧ q.toNat + len.toNat ≤ 2 ^ 32 ∧ bufferOverlaps s.par q.toNat len.toNat = false := by
  unfold State.checkJob at h
  split at h; · cases h
  split at h; · cases h
  split at h; · cases h
  split at h; · cases h
  split at h; · cases h
  split at h; · cases h
  split at h; · cases h
  next h1 h2 h3 h4 h5 h6 h7 =>
  refine ⟨by simpa using h1, by omega, by tauto, by omega, h7, ?_⟩
  rintro q rfl
  simp only [Option.any_some, decide_eq_true_eq, Bool.not_eq_true] at h5 h6
  exact ⟨fun hq => h4 (by rw [hq]), by omega, h6⟩

theorem State.checkJob_of {a len : Word} {ptr : Option Word} {s : State} (hi : s.initDone = true) (hl : len ≠ 0#32)
    (hs : a.toNat + len.toNat ≤ s.par.eeeSize) (hr : s.result ≠ .pending)
    (hp : ∀ q, ptr = some q → q ≠ 0#32 ∧ q.toNat + len.toNat ≤ 2 ^ 32 ∧
      bufferOverlaps s.par q.toNat len.toNat = false) : s.checkJob a len ptr = .accept := by
  have hlen : 0 < len.toNat := by
    rcases Nat.eq_zero_or_pos len.toNat with h | h
    · exact absurd (BitVec.eq_of_toNat_eq (by simpa using h)) hl
    · exact h
  unfold State.checkJob
  rw [if_neg (by simp [hi]), if_neg (by omega), if_neg (by rintro (h | h); exacts [hl h, by omega])]
  cases ptr with
  | none => simp [hr]
  | some q =>
    obtain ⟨h1, h2, h3⟩ := hp q rfl
    rw [if_neg (by simpa using h1), if_neg (by simp; omega), if_neg (by simp [h3]), if_neg hr]

end Sys2Proof.Machine
end

