-- ==== Sys2Proof/Laws/Commands.lean ====
section
/-! SUPPORT. What launching a command does, exactly, under well-formed parameters. -/

namespace Sys2Proof.Machine

/-- The codes of well-formed parameters are pairwise different (30_encoding.md R92). -/
theorem Params.wf_codes {p : Params} (h : p.wf = true) : [p.fcEee, p.fcQuick, p.fcQuery, p.fcComplete].Nodup := by
  simp only [Params.wf, Bool.and_eq_true, decide_eq_true_eq] at h
  exact h.1.1.1.1.1.1.1.1.1.1.1

/-- The brown-out codes of well-formed parameters are pairwise different (30_encoding.md R93). -/
theorem Params.wf_brownOut {p : Params} (h : p.wf = true) : [p.boNone, p.boMaint, p.boQuick, p.boNormal].Nodup := by
  simp only [Params.wf, Bool.and_eq_true, decide_eq_true_eq] at h
  exact h.1.1.1.1.1.1.1.1.1.1.2

/-- The bits of STATUS have different places (10_state.md R25). -/
theorem Params.wf_bits {p : Params} (h : p.wf = true) :
    [p.bitCc, p.bitColl, p.bitAccerr, p.bitPviol, p.bitCstat].Nodup := by
  simp only [Params.wf, Bool.and_eq_true, decide_eq_true_eq] at h
  exact h.1.1.1.1.1.1.1.1.1.2

/-- The slots a command is written into are different (10_state.md R31). -/
theorem Params.wf_slots {p : Params} (h : p.wf = true) : [p.slotCmd, p.slotFc, p.slotLenHi, p.slotLenLo].Nodup := by
  simp only [Params.wf, Bool.and_eq_true, decide_eq_true_eq] at h
  exact h.1.1.1.1.1.1.1.1.2

/-- The slots a query's results come in are different (10_state.md R31). -/
theorem Params.wf_results {p : Params} (h : p.wf = true) : (p.slotBo :: p.slotPend).Nodup ∧ 0 < p.slotPend.length := by
  simp only [Params.wf, Bool.and_eq_true, decide_eq_true_eq] at h
  exact ⟨h.1.1.1.1.1.1.1.2, h.1.1.1.1.1.1.2⟩

/-- The staging buffer ends inside the 32-bit addresses (20_memory.md R60). -/
theorem Params.wf_staging {p : Params} (h : p.wf = true) : p.eeeSize ≤ 2 ^ 32 := by
  simp only [Params.wf, Bool.and_eq_true, decide_eq_true_eq] at h
  omega

/-- The window bounds leave WINDOW_OK's and QUICK_CHECK's divisions a meaning (44_quick_writes_wait.md R270). -/
theorem Params.wf_window {p : Params} (h : p.wf = true) : 0 < p.qwMin ∧ 0 < p.qwStep := by
  simp only [Params.wf, Bool.and_eq_true, decide_eq_true_eq] at h
  exact h.2

theorem commandOf_code {p : Params} (h : [p.fcEee, p.fcQuick, p.fcQuery, p.fcComplete].Nodup) (c : Command) :
    commandOf p (c.code p) = some c := by
  simp only [List.nodup_cons, List.mem_cons, List.not_mem_nil, not_or, or_false] at h
  obtain ⟨⟨h1, h2, h3⟩, ⟨h4, h5⟩, h6, -⟩ := h
  cases c <;> simp [commandOf, Command.code, Ne.symm h1, Ne.symm h2, Ne.symm h3, Ne.symm h4, Ne.symm h5, Ne.symm h6]

theorem commandOf_none {p : Params} {fc : Byte} (h : fc ∉ [p.fcEee, p.fcQuick, p.fcQuery, p.fcComplete]) :
    commandOf p fc = none := by
  simp only [List.mem_cons, List.not_mem_nil, or_false, not_or] at h
  simp [commandOf, h]

theorem code_eq_quick {p : Params} (h : [p.fcEee, p.fcQuick, p.fcQuery, p.fcComplete].Nodup) (c : Command) :
    c.code p = p.fcQuick ↔ c = .setQuick := by
  have hq := commandOf_code h .setQuick
  have hc := commandOf_code h c
  constructor
  · intro e
    rw [e] at hc
    exact (Option.some.inj (hq.symm.trans hc)).symm
  · rintro rfl
    rfl

/-- Writing a command's slots while idle (40_dispatch_polling.md R122, R129). -/
theorem State.writeCommand_slots {s : State} (h : s.busy = false) (fcode : Byte) (len : Half) :
    s.writeCommand fcode len = { s with cmdparam := s.slotsFor fcode len } := by
  rw [State.writeCommand_eq h]
  unfold State.slotsFor
  split <;> rfl

theorem State.slotsFor_cmd {s : State} (h : s.par.wf = true) (fcode : Byte) (len : Half) :
    (s.slotsFor fcode len)[s.par.slotCmd] = s.par.cmdSetfr := by
  have hs := Params.wf_slots h
  simp only [List.nodup_cons, List.mem_cons, List.not_mem_nil, not_or, or_false, Fin.ext_iff] at hs
  have h1 : (s.par.slotFc : Nat) ≠ s.par.slotCmd := by omega
  have h2 : (s.par.slotLenHi : Nat) ≠ s.par.slotCmd := by omega
  have h3 : (s.par.slotLenLo : Nat) ≠ s.par.slotCmd := by omega
  unfold State.slotsFor
  split <;> simp [h1, h2, h3]

theorem State.slotsFor_fc {s : State} (h : s.par.wf = true) (fcode : Byte) (len : Half) :
    (s.slotsFor fcode len)[s.par.slotFc] = fcode := by
  have hs := Params.wf_slots h
  simp only [List.nodup_cons, List.mem_cons, List.not_mem_nil, not_or, or_false, Fin.ext_iff] at hs
  have h2 : (s.par.slotLenHi : Nat) ≠ s.par.slotFc := by omega
  have h3 : (s.par.slotLenLo : Nat) ≠ s.par.slotFc := by omega
  unfold State.slotsFor
  split <;> simp [h2, h3]

theorem half_of_bytes (h : Half) : h.extractLsb' 8 8 ++ h.extractLsb' 0 8 = h := by
  ext i hi
  simp only [BitVec.getElem_append, BitVec.getElem_extractLsb']
  split
  · simp [BitVec.getLsbD_eq_getElem hi]
  · rw [show 8 + (i - 8) = i by omega]
    rfl

/-- The length the controller samples after the slots of a command are written (20_memory.md R63, 40_dispatch_polling.md
R129). -/
theorem State.slotsFor_len {s : State} (h : s.par.wf = true) (c : Command) (len : Half) :
    (s.slotsFor (c.code s.par) len)[s.par.slotLenHi] ++ (s.slotsFor (c.code s.par) len)[s.par.slotLenLo]
      = s.lenFor c len := by
  have hs := Params.wf_slots h
  simp only [List.nodup_cons, List.mem_cons, List.not_mem_nil, not_or, or_false, Fin.ext_iff] at hs
  have hq := code_eq_quick (Params.wf_codes h) c
  unfold State.slotsFor State.lenFor
  by_cases hc : c = .setQuick
  · rw [if_pos (hq.2 hc), if_pos hc]
    have h1 : (s.par.slotLenLo : Nat) ≠ s.par.slotLenHi := by omega
    simp [h1, half_of_bytes]
  · rw [if_neg (fun e => hc (hq.1 e)), if_neg hc]
    have h1 : (s.par.slotFc : Nat) ≠ s.par.slotLenHi := by omega
    have h2 : (s.par.slotFc : Nat) ≠ s.par.slotLenLo := by omega
    have h3 : (s.par.slotCmd : Nat) ≠ s.par.slotLenHi := by omega
    have h4 : (s.par.slotCmd : Nat) ≠ s.par.slotLenLo := by omega
    simp [h1, h2, h3, h4]

/-- The launch of one of the four commands while idle: LAUNCH_WITH_ERROR, an illegal SET_QUICK, or the command in flight
(40_dispatch_polling.md R128, R129, R141). -/
theorem State.issueCommand_command {s : State} (h : s.par.wf = true) (hb : s.busy = false) (c : Command) (len : Half) :
    s.issueCommand (c.code s.par) len =
      if s.accerr || s.pviol then State.raise .launchWithError { s with cmdparam := s.slotsFor (c.code s.par) len }
      else if c = .setQuick ∧ s.quickLegal len = false then
        State.raise .cmdIllegalMode { s with cmdparam := s.slotsFor (c.code s.par) len }
      else { s with
        cmdparam := s.slotsFor (c.code s.par) len, cstat := false, inflight := .cmd c (s.lenFor c len) } := by
  have hcode := commandOf_code (Params.wf_codes h) c
  have hclear : State.clearFlags launchMask { s with cmdparam := s.slotsFor (c.code s.par) len }
      = { s with cmdparam := s.slotsFor (c.code s.par) len } := by
    simp [State.clearFlags, launchMask]
  unfold State.issueCommand
  rw [if_neg (by simp [hb]), State.writeCommand_slots hb]
  unfold State.writeStatus
  simp only [hclear]
  rw [if_pos (show launchMask.cc = true from rfl),
    if_neg (show ¬ State.busy { s with cmdparam := s.slotsFor (c.code s.par) len } = true from fun e => by
      rw [show State.busy { s with cmdparam := s.slotsFor (c.code s.par) len } = s.busy from rfl, hb] at e
      cases e)]
  unfold State.launch State.slot State.lenSlot
  simp only [State.slot, State.slotsFor_cmd h, State.slotsFor_fc h, State.slotsFor_len h, hcode, if_true]
  split
  · rfl
  · by_cases hc : c = .setQuick
    · subst hc
      simp only [State.lenFor, if_true]
      rfl
    · simp [hc]

/-- The launch of a word that is none of the four commands (40_dispatch_polling.md R128). -/
theorem State.issueCommand_reserved {s : State} (h : s.par.wf = true) (hb : s.busy = false) {fcode : Byte}
    (hf : fcode ∉ [s.par.fcEee, s.par.fcQuick, s.par.fcQuery, s.par.fcComplete]) (len : Half) :
    s.issueCommand fcode len = State.raise .cmdReserved { s with cmdparam := s.slotsFor fcode len } := by
  have hclear : State.clearFlags launchMask { s with cmdparam := s.slotsFor fcode len }
      = { s with cmdparam := s.slotsFor fcode len } := by
    simp [State.clearFlags, launchMask]
  unfold State.issueCommand
  rw [if_neg (by simp [hb]), State.writeCommand_slots hb]
  unfold State.writeStatus
  simp only [hclear]
  rw [if_pos (show launchMask.cc = true from rfl),
    if_neg (show ¬ State.busy { s with cmdparam := s.slotsFor fcode len } = true from fun e => by
      rw [show State.busy { s with cmdparam := s.slotsFor fcode len } = s.busy from rfl, hb] at e
      cases e)]
  unfold State.launch State.slot
  simp only [State.slotsFor_cmd h, State.slotsFor_fc h, commandOf_none hf, if_true]

/-- DISPATCH of one of the four commands while idle: the flags are cleared first, so that the launch cannot meet an error
flag (40_dispatch_polling.md R122, R127; 70_reset_and_hazards.md R467). -/
theorem State.dispatchCommand_command {s : State} (h : s.par.wf = true) (hs : s.fault = none) (hb : s.busy = false)
    (op : Byte) (w : WaitPoint) (c : Command) (len : Half) :
    s.dispatchCommand op w (c.code s.par) len =
      if c = .setQuick ∧ s.quickLegal len = false then
        State.raise .cmdIllegalMode { s.w1c with cmdparam := s.slotsFor (c.code s.par) len }
      else State.startWait op w { s.w1c with
        cmdparam := s.slotsFor (c.code s.par) len, cstat := false, inflight := .cmd c (s.lenFor c len) } := by
  unfold State.dispatchCommand
  rw [if_neg (by simp [hb])]
  have e := State.issueCommand_command (s := s.w1c) h hb c len
  rw [show s.w1c.par = s.par from rfl] at e
  rw [e, if_neg (by simp)]
  split
  · next hq =>
    rw [if_pos (show c = .setQuick ∧ s.quickLegal len = false from hq), State.ifSound_raise]
    rfl
  · next hq =>
    rw [if_neg (show ¬ (c = .setQuick ∧ s.quickLegal len = false) from hq)]
    exact State.ifSound_of_sound (s := { s.w1c with
      cmdparam := s.w1c.slotsFor (c.code s.par) len, cstat := false, inflight := .cmd c (s.w1c.lenFor c len) }) hs _

end Sys2Proof.Machine
end

