-- ==== Sys2Proof/Laws/PerInstr.lean ====
section
/-! SUPPORT. The statements about every instruction as syntax, one lemma per constructor. -/

namespace Sys2Proof.Laws

/-- The encoding of an instruction has its row's format: an OPD with the row's OP in bits 7:0 and zeros in bits 127:120
(30_encoding.md R95), a CMDW with P_CMD_SETFR in bits 31:24 (R91), or an EEEW of one or four bytes (R94). -/
def EncodingFits.Statement (i : Instr) : Prop :=
  ∀ p : Params,
    match encode p i with
    | .opd w => Machine.opcodeOf i = some (opdOp w) ∧ opdTop w = 0#8
    | .cmdw w => Machine.opcodeOf i = none ∧ w.extractLsb' 24 8 = p.cmdSetfr
    | .eeew _ data => Machine.opcodeOf i = none ∧ (data.length = 1 ∨ data.length = 4)

theorem opdOp_opdWord (op : Byte) (a b c : Word) (h : Half) : opdOp (opdWord op a b c h) = op := by
  ext k hk
  simp only [opdOp, opdWord, BitVec.getElem_extractLsb', BitVec.getLsbD_cast, BitVec.getLsbD_append]
  simp [hk, BitVec.getLsbD_eq_getElem]

theorem opdTop_opdWord (op : Byte) (a b c : Word) (h : Half) : opdTop (opdWord op a b c h) = 0#8 := by
  ext k hk
  simp only [opdTop, opdWord, BitVec.getElem_extractLsb', BitVec.getLsbD_cast, BitVec.getLsbD_append]
  rw [if_neg (by omega), if_neg (by omega), if_neg (by omega), if_neg (by omega), if_neg (by omega)]
  simp

theorem cmd_cmdWord (p : Params) (c : Command) (len : Half) : (cmdWord p c len).extractLsb' 24 8 = p.cmdSetfr := by
  ext k hk
  simp only [cmdWord, BitVec.getElem_extractLsb', BitVec.getLsbD_cast, BitVec.getLsbD_append]
  rw [if_neg (by omega), if_neg (by omega), show 24 + k - 16 - 8 = k by omega]
  exact BitVec.getLsbD_eq_getElem hk

theorem EncodingFits.init : ∀ x, EncodingFits.Statement (.init x) :=
  fun _ _ => ⟨(congrArg some (opdOp_opdWord _ _ _ _ _)).symm, opdTop_opdWord _ _ _ _ _⟩

theorem EncodingFits.writeS : ∀ x y z, EncodingFits.Statement (.writeS x y z) :=
  fun _ _ _ _ => ⟨(congrArg some (opdOp_opdWord _ _ _ _ _)).symm, opdTop_opdWord _ _ _ _ _⟩

theorem EncodingFits.writeA : ∀ x y z, EncodingFits.Statement (.writeA x y z) :=
  fun _ _ _ _ => ⟨(congrArg some (opdOp_opdWord _ _ _ _ _)).symm, opdTop_opdWord _ _ _ _ _⟩

theorem EncodingFits.eraseS : ∀ x y, EncodingFits.Statement (.eraseS x y) :=
  fun _ _ _ => ⟨(congrArg some (opdOp_opdWord _ _ _ _ _)).symm, opdTop_opdWord _ _ _ _ _⟩

theorem EncodingFits.eraseA : ∀ x y, EncodingFits.Statement (.eraseA x y) :=
  fun _ _ _ => ⟨(congrArg some (opdOp_opdWord _ _ _ _ _)).symm, opdTop_opdWord _ _ _ _ _⟩

theorem EncodingFits.poll : EncodingFits.Statement .poll :=
  fun _ => ⟨(congrArg some (opdOp_opdWord _ _ _ _ _)).symm, opdTop_opdWord _ _ _ _ _⟩

theorem EncodingFits.read : ∀ x y z, EncodingFits.Statement (.read x y z) :=
  fun _ _ _ _ => ⟨(congrArg some (opdOp_opdWord _ _ _ _ _)).symm, opdTop_opdWord _ _ _ _ _⟩

theorem EncodingFits.compare : ∀ x y z, EncodingFits.Statement (.compare x y z) :=
  fun _ _ _ _ => ⟨(congrArg some (opdOp_opdWord _ _ _ _ _)).symm, opdTop_opdWord _ _ _ _ _⟩

theorem EncodingFits.quickCheck : ∀ x y z u, EncodingFits.Statement (.quickCheck x y z u) :=
  fun _ _ _ _ _ => ⟨(congrArg some (opdOp_opdWord _ _ _ _ _)).symm, opdTop_opdWord _ _ _ _ _⟩

theorem EncodingFits.quickEnter : ∀ x, EncodingFits.Statement (.quickEnter x) :=
  fun _ _ => ⟨(congrArg some (opdOp_opdWord _ _ _ _ _)).symm, opdTop_opdWord _ _ _ _ _⟩

theorem EncodingFits.quickExit : EncodingFits.Statement .quickExit :=
  fun _ => ⟨(congrArg some (opdOp_opdWord _ _ _ _ _)).symm, opdTop_opdWord _ _ _ _ _⟩

theorem EncodingFits.waitReady : EncodingFits.Statement .waitReady :=
  fun _ => ⟨(congrArg some (opdOp_opdWord _ _ _ _ _)).symm, opdTop_opdWord _ _ _ _ _⟩

theorem EncodingFits.routineLoad : ∀ x, EncodingFits.Statement (.routineLoad x) :=
  fun _ _ => ⟨(congrArg some (opdOp_opdWord _ _ _ _ _)).symm, opdTop_opdWord _ _ _ _ _⟩

theorem EncodingFits.routineUnload : EncodingFits.Statement .routineUnload :=
  fun _ => ⟨(congrArg some (opdOp_opdWord _ _ _ _ _)).symm, opdTop_opdWord _ _ _ _ _⟩

theorem EncodingFits.dispatch : ∀ x y, EncodingFits.Statement (.dispatch x y) :=
  fun _ _ _ => ⟨(congrArg some (opdOp_opdWord _ _ _ _ _)).symm, opdTop_opdWord _ _ _ _ _⟩

theorem EncodingFits.crcReset : EncodingFits.Statement .crcReset :=
  fun _ => ⟨(congrArg some (opdOp_opdWord _ _ _ _ _)).symm, opdTop_opdWord _ _ _ _ _⟩

theorem EncodingFits.crcFold8 : ∀ x, EncodingFits.Statement (.crcFold8 x) :=
  fun _ _ => ⟨(congrArg some (opdOp_opdWord _ _ _ _ _)).symm, opdTop_opdWord _ _ _ _ _⟩

theorem EncodingFits.crcFold16 : ∀ x, EncodingFits.Statement (.crcFold16 x) :=
  fun _ _ => ⟨(congrArg some (opdOp_opdWord _ _ _ _ _)).symm, opdTop_opdWord _ _ _ _ _⟩

theorem EncodingFits.crcFinalize : EncodingFits.Statement .crcFinalize :=
  fun _ => ⟨(congrArg some (opdOp_opdWord _ _ _ _ _)).symm, opdTop_opdWord _ _ _ _ _⟩

theorem EncodingFits.crcCheckCfg : ∀ x, EncodingFits.Statement (.crcCheckCfg x) :=
  fun _ _ => ⟨(congrArg some (opdOp_opdWord _ _ _ _ _)).symm, opdTop_opdWord _ _ _ _ _⟩

theorem EncodingFits.setEee : EncodingFits.Statement .setEee :=
  fun _ => ⟨rfl, cmd_cmdWord _ _ _⟩

theorem EncodingFits.setQuick : ∀ x, EncodingFits.Statement (.setQuick x) :=
  fun _ _ => ⟨rfl, cmd_cmdWord _ _ _⟩

theorem EncodingFits.query : EncodingFits.Statement .query :=
  fun _ => ⟨rfl, cmd_cmdWord _ _ _⟩

theorem EncodingFits.complete : EncodingFits.Statement .complete :=
  fun _ => ⟨rfl, cmd_cmdWord _ _ _⟩

theorem EncodingFits.page1 : ∀ x y, EncodingFits.Statement (.page1 x y) :=
  fun _ _ _ => ⟨rfl, .inl rfl⟩

theorem EncodingFits.page4 : ∀ x y z u v, EncodingFits.Statement (.page4 x y z u v) :=
  fun _ _ _ _ _ _ => ⟨rfl, .inr rfl⟩

end Sys2Proof.Laws
end

