-- ==== Sys2Proof/WellFormed.lean ====
section
/-! DEFINITION. Which terms of `Instr` are encodings the spec admits. An ill-formed one still has a meaning: the fault
its rule names. -/

namespace Sys2Proof

/-- A page of four bytes stands at an address that is a multiple of 4 (30_encoding.md R94). -/
def wfPage4 (a : Word) : Bool := a.toNat % 4 == 0

/-- A routine kind is 1 (ERASE) or 2 (WRITE) (30_encoding.md R95). -/
def wfKind (kind : Byte) : Bool := kind == 1#8 || kind == 2#8

/-- CRC_CHECK_CFG invoked directly takes no null configuration pointer (45_crc16.md R310). -/
def wfCfg (cfg : Word) : Bool := cfg != 0#32

/-- The check of one instruction. -/
def Instr.wf : Instr → Bool
  | .init _ => true
  | .writeS _ _ _ => true
  | .writeA _ _ _ => true
  | .eraseS _ _ => true
  | .eraseA _ _ => true
  | .poll => true
  | .read _ _ _ => true
  | .compare _ _ _ => true
  | .quickCheck _ _ _ _ => true
  | .quickEnter _ => true
  | .quickExit => true
  | .waitReady => true
  | .routineLoad kind => wfKind kind
  | .routineUnload => true
  | .dispatch _ _ => true
  | .crcReset => true
  | .crcFold8 _ => true
  | .crcFold16 _ => true
  | .crcFinalize => true
  | .crcCheckCfg cfg => wfCfg cfg
  | .setEee => true
  | .setQuick _ => true
  | .query => true
  | .complete => true
  | .page1 _ _ => true
  | .page4 a _ _ _ _ => wfPage4 a

end Sys2Proof
end

