-- ==== Sys2Proof/Tests/Slice0.lean ====
section
/-! SUPPORT. The model's own tests: the well-formedness smoke, words written out from the encoding tables of
30_encoding.md, one step of each instruction with the result 95_test_vectors.md states, and for every statement of
Certificates/Slice0/Obligations.lean that has hypotheses a concrete state that meets them. -/

namespace Sys2Proof.Tests

open Sys2Proof Sys2Proof.Machine

/-! ## Well-formedness -/

theorem test_wf_refuses_unaligned_page4 : (Instr.page4 0x101#32 1#8 2#8 3#8 4#8).wf = false := by decide
theorem test_wf_accepts_last_page4 : (Instr.page4 0xFFC#32 1#8 2#8 3#8 4#8).wf = true := by decide
theorem test_wf_refuses_routine_kind_3 : (Instr.routineLoad 3#8).wf = false := by decide
theorem test_wf_refuses_null_configuration : (Instr.crcCheckCfg 0#32).wf = false := by decide
theorem test_wf_reference_parameters : Params.reference.wf = true := by decide

/-! ## Decoding of words written out from the encodings (95_test_vectors.md 2.1 and section 3, or the table of R95) -/

/-- The instruction a descriptor decodes to. -/
def opd (w : Descriptor) : Option Instr := (decodeOpd w).toOption

/-- The instruction a command word decodes to, with the reference codes. -/
def cmdw (w : Word) : Option Instr := (decodeCmdw Params.reference w).toOption

theorem test_decode_init : opd 0x00000000000000000000002000000001#128 = some (.init 0x20000000#32) := by decide
theorem test_decode_writeS :
    opd 0x0000000000000A200001000000010102#128 = some (.writeS 0x101#32 0x20000100#32 10#32) := by decide
theorem test_decode_writeA :
    opd 0x0000000000000720000300000000FE03#128 = some (.writeA 0xFE#32 0x20000300#32 7#32) := by decide
theorem test_decode_eraseS : opd 0x00000000000008000000000000030004#128 = some (.eraseS 0x300#32 8#32) := by decide
theorem test_decode_eraseA : opd 0x00000000000002000000000000000305#128 = some (.eraseA 3#32 2#32) := by decide
theorem test_decode_poll : opd 0x00000000000000000000000000000006#128 = some .poll := by decide
theorem test_decode_read :
    opd 0x0000000000000A200002000000010107#128 = some (.read 0x101#32 0x20000200#32 10#32) := by decide
theorem test_decode_compare :
    opd 0x0000000000000A200001000000010108#128 = some (.compare 0x101#32 0x20000100#32 10#32) := by decide
theorem test_decode_quickCheck :
    opd 0x00001000000020200004000000020009#128 = some (.quickCheck 0x200#32 0x20000400#32 32#32 16#16) := by decide
theorem test_decode_quickEnter : opd 0x0000100000000000000000000000000A#128 = some (.quickEnter 16#16) := by decide
theorem test_decode_quickExit : opd 0x0000000000000000000000000000000B#128 = some .quickExit := by decide
theorem test_decode_waitReady : opd 0x0000000000000000000000000000000C#128 = some .waitReady := by decide
theorem test_decode_routineLoad : opd 0x0000000000000000000000000000020D#128 = some (.routineLoad 2#8) := by decide
theorem test_decode_routineUnload : opd 0x0000000000000000000000000000000E#128 = some .routineUnload := by decide
theorem test_decode_dispatch : opd 0x0000400000000000000000000000AA0F#128 = some (.dispatch 0xAA#8 0x40#16) := by decide
theorem test_decode_crcReset : opd 0x00000000000000000000000000000010#128 = some .crcReset := by decide
theorem test_decode_crcFold8 : opd 0x00000000000000000000000000003111#128 = some (.crcFold8 0x31#8) := by decide
theorem test_decode_crcFold16 : opd 0x00000000000000000000000000567812#128 = some (.crcFold16 0x5678#16) := by decide
theorem test_decode_crcFinalize : opd 0x00000000000000000000000000000013#128 = some .crcFinalize := by decide
theorem test_decode_crcCheckCfg :
    opd 0x00000000000000000000002000000014#128 = some (.crcCheckCfg 0x20000000#32) := by decide
theorem test_decode_setEee : cmdw 0x81000000#32 = some .setEee := by decide
theorem test_decode_setQuick : cmdw 0x81AA0040#32 = some (.setQuick 64#16) := by decide
theorem test_decode_query : cmdw 0x81771234#32 = some .query := by decide
theorem test_decode_complete : cmdw 0x81550000#32 = some .complete := by decide
theorem test_decode_page1 : (decodeEeew 0x10#32 [0x5A#8]).toOption = some (.page1 0x10#32 0x5A#8) := by decide
theorem test_decode_page4 : (decodeEeew 0x100#32 [0x11#8, 0x22#8, 0x33#8, 0x44#8]).toOption =
    some (.page4 0x100#32 0x11#8 0x22#8 0x33#8 0x44#8) := by decide

/-- V-ENC-6, V-ENC-7, V-ENC-8, V-ENC-12, V-ENC-13: refused by name. -/
theorem test_decode_refuses :
    decodeOpd 0#128 = .error (.opReserved 0#8) ∧ decodeOpd 0x15#128 = .error (.opReserved 0x15#8) ∧
    decodeOpd 0x01000000000000000000000000000010#128 = .error (.operandReserved 0x10#8) ∧
    decodeOpd 0x00000000000000000000000000013111#128 = .error (.operandReserved 0x11#8) ∧
    decodeCmdw Params.reference 0x80770000#32 = .error .cmdReserved ∧
    decodeCmdw Params.reference 0x81120000#32 = .error .cmdReserved ∧
    decodeEeew 0x10#32 [1#8, 2#8] = .error .storeSize := by decide

/-- V-ENC-1 to V-ENC-5 and V-ENC-10, the other way round. -/
theorem test_encode_vectors :
    encode Params.reference (.writeS 0x101#32 0x20000100#32 10#32) = .opd 0x0000000000000A200001000000010102#128 ∧
    encode Params.reference (.dispatch 0xAA#8 0x40#16) = .opd 0x0000400000000000000000000000AA0F#128 ∧
    encode Params.reference (.setQuick 64#16) = .cmdw 0x81AA0040#32 := by decide

/-! ## One step of each instruction -/

/-- The state S_ready of 95_test_vectors.md. -/
def ready : State := { State.reset with mode := .normal, initDone := true }

/-- S_ready of the asynchronous build. -/
def readyA : State := { ready with par := { ready.par with async := true } }

/-- S_ready of the build that loads the access routine: 95_test_vectors.md 2.11 with a code of two bytes. -/
def readyL : State :=
  { ready with
    par := { ready.par with
      loadOnStart := true, shadowSize := 6
      writeRoutine := { code := [0x11#8, 0x22#8], off := 1, entry := 0 }, unloadPattern := 0x11223344#32 } }

/-- S_ready with a query in flight. -/
def busy : State := { ready with inflight := .cmd .query 0#16 }

/-- In quick mode with a window of 16. -/
def quickly : State := { ready with mode := .quick 16#16, quick := true }

/-- The next state of an instruction, if there is one. -/
def after (i : Instr) (s : State) : Option State :=
  match exec i s with
  | .next t => some t
  | .fault _ => none
  | .refused _ => none

/-- What the instruction returned. -/
def returned (i : Instr) (s : State) : Option Return := (after i s).bind fun t => t.ret

/-- The fault the instruction recorded. -/
def faulted (i : Instr) (s : State) : Option Fault := (after i s).bind fun t => t.fault

/-- V-IN-8. -/
theorem test_init_null : returned (.init 0#32) State.reset = some ⟨.rejected, none⟩ := by decide
/-- V-IN-2: the all-zero configuration (V-CFG-1) and READY = 0: SET_EEE goes first. -/
def zeroCfg : State := { State.reset with mem := (List.range 22).map fun k => (0x20000000 + k, 0#8) }
set_option maxRecDepth 20000 in
theorem test_init_launches_set_eee :
    (after (.init 0x20000000#32) zeroCfg).map (fun t => (t.inflight, t.pos, t.tmo)) =
      some (.cmd .setEee 0#16, .waiting 0x01#8 .initOnline, 3#32) := by decide
/-- V-WS-1: its first page is the byte at 0x101. -/
theorem test_writeS_first_page :
    (after (.writeS 0x101#32 0x20000100#32 10#32) { ready with mem := [(0x20000100, 0#8), (0x20000101, 1#8)] }).map
      (fun t => (t.inflight, t.stage, t.rem)) = some (.page 0x101#32 1, [(0x101, 0#8)], 10#32) := by decide
/-- V-WS-7. -/
theorem test_writeS_offline :
    returned (.writeS 0x100#32 0x20000000#32 16#32) { ready with mode := .offline } = some ⟨.failed, some 0⟩ := by decide
/-- V-WA-1. -/
theorem test_writeA_first_page :
    (after (.writeA 0xFE#32 0x20000300#32 7#32) { readyA with mem := [(0x20000300, 0x11#8)] }).map
      (fun t => (t.ret, t.stage, t.dst, t.rem)) =
      some (some ⟨.writeRequested, some 1⟩, [(0xFE, 0x11#8)], 0xFF#32, 6#32) ∧
    (after (.writeA 0xFE#32 0x20000300#32 7#32) readyA).map (fun t => (t.issued, t.result, t.tmo)) =
      some (true, .pending, 3#32) := by decide
/-- V-WA-8. -/
theorem test_writeA_busy :
    (after (.writeA 0xFE#32 0x20000300#32 7#32) { readyA with inflight := .page 0#32 4 }).map
      (fun t => (t.ret, t.tmo, t.issued)) = some (some ⟨.writeRequested, some 0⟩, 2#32, false) := by decide
/-- V-ER-1, its first page over a byte 00. -/
theorem test_eraseS_first_page :
    (after (.eraseS 0x200#32 8#32) { ready with stage := [(0x201, 0#8), (0x204, 0#8)] }).map
      (fun t => (t.inflight, t.stage)) = some (.page 0x200#32 4, [(0x204, 0#8)]) := by decide
/-- V-ER-2. -/
theorem test_eraseS_wrong_routine : faulted (.eraseS 0x200#32 2#32) { readyL with routine := .write } = some .noRoutine := by
  decide
/-- V-WA-9. -/
theorem test_eraseA_first_page :
    (after (.eraseA 3#32 2#32) { readyA with stage := [(3, 0#8), (4, 0#8)] }).map (fun t => (t.ret, t.stage, t.dst)) =
      some (some ⟨.writeRequested, some 1⟩, [(4, 0#8)], 4#32) := by decide
/-- V-WA-2. -/
theorem test_poll_busy :
    (after .poll { readyA with result := .pending, issued := true, rem := 6#32, tmo := 3#32, inflight := .page 0xFE#32 1 }).map
      (fun t => (t.ret, t.tmo)) = some (some ⟨.writeRequested, some 0⟩, 2#32) := by decide
/-- V-WA-7. -/
theorem test_poll_idle : returned .poll readyA = some ⟨.rejected, some 0⟩ := by decide
/-- V-RC-1, three bytes of it. -/
theorem test_read :
    (after (.read 0x101#32 0x20000200#32 3#32) { ready with stage := [(0x101, 0#8), (0x102, 1#8), (0x103, 2#8)] }).map
      (fun t => (t.ret, t.mem)) =
      some (some ⟨.ok, none⟩, [(0x20000200, 0#8), (0x20000201, 1#8), (0x20000202, 2#8)]) := by decide
/-- V-RC-9: the last register byte, and the first byte after the registers. -/
theorem test_read_overlap :
    faulted (.read 0#32 0x4002000F#32 1#32) ready = some .bufferOverlap ∧
    returned (.read 0#32 0x40020010#32 1#32) ready = some ⟨.ok, none⟩ := by decide
/-- V-RC-3. -/
theorem test_compare_differs :
    returned (.compare 0x100#32 0x20000000#32 4#32) { ready with
      stage := [(0x100, 0x11#8), (0x101, 0x22#8), (0x102, 0x33#8), (0x103, 0x44#8)]
      mem := [(0x20000000, 0x11#8), (0x20000001, 0x22#8), (0x20000002, 0x30#8), (0x20000003, 0x44#8)] } =
      some ⟨.inconsistent, some 2⟩ := by decide
/-- V-CHK-7. -/
theorem test_compare_wraps : faulted (.compare 0x100#32 0xFFFFFFF9#32 8#32) ready = some .bufferWrap := by decide
/-- V-QK-8. -/
theorem test_quickCheck_bounds :
    returned (.quickCheck 0x100#32 0x20000000#32 32#32 16#16) ready = some ⟨.ok, none⟩ ∧
    returned (.quickCheck 0x100#32 0x20000000#32 512#32 512#16) ready = some ⟨.ok, none⟩ := by decide
/-- V-QK-9. -/
theorem test_quickCheck_window_first :
    (after (.quickCheck 0x102#32 0x20000002#32 100#32 0#16) ready).map (fun t => t.det) =
      some [⟨0, 0, 0x09#8, .paramQuick⟩] := by decide
/-- V-QK-10, its launch: LEN holds the window (V-ENC-10). -/
theorem test_quickEnter_launches :
    (after (.quickEnter 64#16) ready).map (fun t => (t.inflight, t.cmdparam[4], t.cmdparam[5])) =
      some (.cmd .setQuick 64#16, 0#8, 0x40#8) := by decide
/-- V-QK-11, and a window that is no multiple of 4 (V-QK-7). -/
theorem test_quickEnter_refusals :
    (after (.quickEnter 20#16) quickly).map (fun t => t.det) = some [⟨0, 0, 0x0A#8, .busy⟩] ∧
    returned (.quickEnter 18#16) ready = some ⟨.rejected, none⟩ := by decide
/-- V-QK-16, its launch. -/
theorem test_quickExit_launches :
    (after .quickExit quickly).map (fun t => (t.inflight, t.quick)) = some (.cmd .setEee 0#16, true) := by decide
/-- V-WR-6. -/
theorem test_waitReady_in_quick_mode :
    (after .waitReady quickly).map (fun t => t.det) = some [⟨0, 0, 0x0C#8, .cancelQuick⟩] := by decide
/-- V-RT-1, V-RT-7. -/
theorem test_routineLoad :
    (after (.routineLoad 2#8) readyL).map (fun t => (t.routine, t.shadow)) =
      some (.write, [(0, 0x44#8), (1, 0x11#8), (2, 0x22#8), (3, 0x11#8), (4, 0x44#8), (5, 0x33#8)]) := by decide
/-- V-RT-4. -/
theorem test_routineLoad_kind_3 : faulted (.routineLoad 3#8) readyL = some .operandReserved := by decide
/-- V-RT-3, V-RT-7. -/
theorem test_routineUnload :
    (after .routineUnload { readyL with routine := .write }).map (fun t => (t.routine, t.shadow)) =
      some (.none, [(0, 0x44#8), (1, 0x33#8), (2, 0x22#8), (3, 0x11#8), (4, 0x44#8), (5, 0x33#8)]) := by decide
/-- V-DSP-1, its launch. -/
theorem test_dispatch_launches :
    (after (.dispatch 0x77#8 0#16) { ready with accerr := true, cstat := true }).map
      (fun t => (t.inflight, t.cmdparam[0], t.cmdparam[1], t.accerr, t.cstat)) =
      some (.cmd .query 0#16, 0x81#8, 0x77#8, false, false) := by decide
/-- V-DSP-11, V-DSP-12. -/
theorem test_dispatch_faults :
    faulted (.dispatch 0x12#8 0#16) ready = some .cmdReserved ∧
    faulted (.dispatch 0xAA#8 18#16) ready = some .cmdIllegalMode := by decide
/-- V-CRC-1. -/
theorem test_crcReset : (after .crcReset { ready with crcSr := 0x1234#32 }).map (fun t => t.crcSr) = some 0#32 := by decide
/-- V-CRC-5. -/
theorem test_crcFold8 :
    (after (.crcFold8 0x56#8) { ready with crcSr := 0x1234#32 }).map (fun t => t.crcSr) = some 0x0625#32 := by decide
/-- V-CRC-4. -/
theorem test_crcFold8_ones :
    (after (.crcFold8 0xFF#8) { ready with crcSr := 0xFFFF#32 }).map (fun t => t.crcSr) = some 0xE10F#32 := by decide
/-- V-CRC-10. -/
theorem test_crcFold16 :
    (after (.crcFold16 0x5678#16) { ready with crcSr := 0x1234#32 }).map (fun t => t.crcSr) = some 0x45BE#32 := by decide
/-- V-CRC-14. -/
theorem test_crcFinalize :
    (after .crcFinalize { ready with crcSr := 0xFFFF#32 }).map (fun t => t.crcSr) = some 0x1D0F#32 := by decide
/-- V-CRC-22. -/
theorem test_crcFinalize_again :
    (after .crcFinalize { ready with crcSr := 0x31C3#32 }).map (fun t => t.crcSr) = some 0xDF8B#32 := by decide
set_option maxRecDepth 20000 in
/-- V-CFG-2, V-CFG-4: the checksums of two configurations, by their items. -/
theorem test_configuration_checksums :
    crcOfItems 0#16 [.byte 1#8, .half 0x0400#16, .half 0x0100#16, .byte 0x80#8, .byte 0x20#8] = 0xF78E#32 ∧
    crcOfItems 0#16 [.byte 1#8, .half 1#16, .half 0#16, .half 0x0200#16, .byte 0xFF#8, .half 0x0100#16] = 0x9047#32 := by
  decide
/-- V-CFG-2 read from the caller's memory in the model's packed layout (log 25). -/
def cfg2 : State :=
  { ready with mem := [0x01#8, 0#8, 0#8, 0#8, 0#8, 0x04#8, 0#8, 0#8, 0#8, 0x01#8, 0#8, 0#8, 0x80#8, 0#8, 0#8, 0#8, 0x20#8, 0#8, 0#8,
    0#8, 0x8E#8, 0xF7#8].zipIdx.map fun c => (0x20000000 + c.2, c.1) }
set_option maxRecDepth 20000 in
theorem test_crcCheckCfg : returned (.crcCheckCfg 0x20000000#32) cfg2 = some ⟨.ok, none⟩ := by decide
/-- SET_EEE by itself with PVIOL set (40_dispatch_polling.md R128). -/
theorem test_setEee_with_error : faulted .setEee { ready with pviol := true } = some .launchWithError := by decide
/-- SET_QUICK by itself (R141): both bounds of the window. -/
theorem test_setQuick_bounds :
    (after (.setQuick 512#16) ready).map (fun t => t.inflight) = some (.cmd .setQuick 512#16) ∧
    faulted (.setQuick 516#16) ready = some .cmdIllegalMode := by decide
/-- V-ENC-11: LEN keeps its old value. -/
theorem test_query_keeps_len :
    (after .query { ready with cmdparam := Vector.replicate 12 7#8 }).map (fun t => (t.cmdparam[1], t.cmdparam[4], t.cmdparam[5])) =
      some (0x77#8, 7#8, 7#8) := by decide
/-- COMPLETE by itself while a page is in flight (R126). -/
theorem test_complete_busy : faulted .complete { ready with inflight := .page 0#32 1 } = some .launchWhileBusy := by decide
/-- V-PG-1. -/
theorem test_page1 :
    (after (.page1 0x10#32 0x5A#8) ready).map (fun t => (t.stage, t.inflight, t.nv)) =
      some ([(0x10, 0x5A#8)], .page 0x10#32 1, []) := by decide
/-- V-PG-5, V-PG-6. -/
theorem test_page1_faults :
    faulted (.page1 0x1000#32 0#8) ready = some .outOfRange ∧ faulted (.page1 0xFFF#32 0#8) ready = none ∧
    faulted (.page1 0x10#32 0#8) quickly = some .quickUnaligned := by decide
/-- V-PG-3. -/
theorem test_page4 :
    (after (.page4 0x100#32 0x11#8 0x22#8 0x33#8 0x44#8) ready).map (fun t => t.stage) =
      some [(0x100, 0x11#8), (0x101, 0x22#8), (0x102, 0x33#8), (0x103, 0x44#8)] ∧
    wordOfBytes 0x11#8 0x22#8 0x33#8 0x44#8 = 0x44332211#32 := by decide
/-- V-ENC-14. -/
theorem test_page4_unaligned : faulted (.page4 0x101#32 1#8 2#8 3#8 4#8) ready = some .pageUnaligned := by decide

/-! ## One step of the controller and of a wait -/

/-- A completion without error that draws zeros. -/
def clean : FcDraw :=
  { accerr := false, pviol := false, cstat := false, pend := 0, resPend := [], resBo := 0#8, stageBytes := [], nvBytes := [] }

/-- The next state of a step. -/
def stepped (s : State) : Option State :=
  match step s with
  | .next t => some t
  | .fault _ => none
  | .refused _ => none

/-- V-PG-2. -/
theorem test_page_completes :
    (stepped { ready with stage := [(0x10, 0x5A#8)], inflight := .page 0x10#32 1, inputs := [.fcComplete clean] }).map
      (fun t => (t.nv, t.inflight)) = some ([(0x10, 0x5A#8)], .none) := by decide
/-- V-DSP-15. -/
theorem test_set_eee_completes_offline :
    (stepped { State.reset with nv := [(0, 1#8), (1, 2#8)], inflight := .cmd .setEee 0#16, inputs := [.fcComplete clean] }).map
      (fun t => (t.mode, t.stage)) = some (.normal, [(0, 1#8), (1, 2#8)]) := by decide
/-- V-DSP-3, its last poll. -/
theorem test_dispatch_times_out :
    (stepped { busy with pos := .waiting 0x0F#8 .dispatched, tmo := 1#32, inputs := [.seqStep] }).map
      (fun t => (t.ret, t.det, t.tmo, t.inflight)) =
      some (some ⟨.failed, none⟩, [⟨0, 0, 0x0F#8, .timeout⟩], 0#32, .cmd .query 0#16) := by decide
/-- Waits and POLLs of a budget already at 0 expire (log 41). -/
theorem test_spent_budget :
    (stepped { busy with pos := .waiting 0x0F#8 .dispatched, tmo := 0#32, inputs := [.seqStep] }).map (fun t => (t.ret, t.tmo)) =
      some (some ⟨.failed, none⟩, 0#32) ∧
    (after .poll { readyA with result := .pending, rem := 6#32, tmo := 0#32, inflight := .page 0xFE#32 1 }).map
      (fun t => (t.ret, t.tmo, t.result)) = some (some ⟨.failed, some 0⟩, 0#32, .failed) := by decide
/-- R151: the callback that does not return is REENTRY where it is called, and is called only with CC = 0. -/
theorem test_callback_breach :
    (stepped { busy with
      par := { busy.par with callback := true }, pos := .waiting 0x0C#8 .ready, inputs := [.callbackBreaks .neverReturns] }).map
      (fun t => (t.fault, t.callbacks)) = some (some .reentry, 1) ∧
    (stepped { ready with
      par := { ready.par with callback := true }, pos := .waiting 0x0C#8 .ready, inputs := [.callbackBreaks .touches] }).map
      (fun t => (t.fault, t.callbacks)) = some (none, 0) := by decide
/-- The window bounds of 00_scope.md R7, and another instance's. -/
theorem test_window_parameters :
    (Params.reference.qwMin, Params.reference.qwMax, Params.reference.qwStep) = (16, 512, 4) ∧
    windowOk { Params.reference with qwMin := 8, qwMax := 24, qwStep := 8 } 24#16 = true ∧
    windowOk { Params.reference with qwMin := 8, qwMax := 24, qwStep := 8 } 20#16 = false := by decide
/-- A layout whose mode is a byte behind a pointer, read as FAST or SLOW. -/
theorem test_layout_expression :
    layoutValue [(0x100, 0#8), (0x101, 2#8), (0x102, 0#8), (0x103, 0#8), (0x200, 1#8)] 0x100#32
      (.cond (.bin .eq (.byteAt (Config.littleEndian 4 0#32)) (.lit 1#32)) (.lit 1#32) (.lit 0#32)) = 1#32 := by decide
/-- The row of an opcode table runs as the first instruction after reset. -/
theorem test_withFetchWord_runs :
    stepped (State.reset.withFetchWord 8 0x06) =
      after .poll { State.reset with par := { State.reset.par with async := true } } := by decide

/-! ## Witnesses: for each statement with hypotheses, concrete values that meet them, clause by clause -/

/-- The state `s` with one input. -/
def gets (x : Input) (s : State) : State := { s with inputs := [x] }

/-- The state `s` with an operation waiting. -/
def waits (op : Byte) (w : WaitPoint) (s : State) : State := { s with pos := .waiting op w }

/-- A completion with ACCERR. -/
def failing : FcDraw := { clean with accerr := true, stageBytes := [1#8, 2#8, 3#8, 4#8], nvBytes := [5#8, 6#8, 7#8, 8#8] }

/-- A reset that draws zeros and this READY. -/
def resetDraw (r : Bool) : ResetDraw :=
  { ready := r, configRest := 0#8, boLatch := .none, pend := 0, interrupted := [], stage := [], cmdparam := Vector.replicate 12 0#8
    dst := 0#32, src := 0#32, srckind := .buffer, rem := 0#32, tmo := 0#32, shadow := [], crc := 0#16 }

/-- A full page in flight. -/
def paging : State := { ready with inflight := .page 0xFFC#32 4, stage := [(0xFFC, 1#8), (0xFFF, 4#8)] }

/-- In quick mode with a page completed and another in flight. -/
def quickPaging : State := { quickly with inflight := .page 4#32 4, qdirty := [0, 1, 2, 3], stage := [(0, 9#8)] }

/-- A PENDING asynchronous transfer, the next page not yet issued. -/
def pendingA : State := { readyA with result := .pending, dst := 0x100#32, src := 0x20000000#32, rem := 5#32, tmo := 3#32 }

theorem encodingFits (i : Instr) : Laws.EncodingFits.Statement i := by
  cases i
  · exact Laws.EncodingFits.init _
  · exact Laws.EncodingFits.writeS _ _ _
  · exact Laws.EncodingFits.writeA _ _ _
  · exact Laws.EncodingFits.eraseS _ _
  · exact Laws.EncodingFits.eraseA _ _
  · exact Laws.EncodingFits.poll
  · exact Laws.EncodingFits.read _ _ _
  · exact Laws.EncodingFits.compare _ _ _
  · exact Laws.EncodingFits.quickCheck _ _ _ _
  · exact Laws.EncodingFits.quickEnter _
  · exact Laws.EncodingFits.quickExit
  · exact Laws.EncodingFits.waitReady
  · exact Laws.EncodingFits.routineLoad _
  · exact Laws.EncodingFits.routineUnload
  · exact Laws.EncodingFits.dispatch _ _
  · exact Laws.EncodingFits.crcReset
  · exact Laws.EncodingFits.crcFold8 _
  · exact Laws.EncodingFits.crcFold16 _
  · exact Laws.EncodingFits.crcFinalize
  · exact Laws.EncodingFits.crcCheckCfg _
  · exact Laws.EncodingFits.setEee
  · exact Laws.EncodingFits.setQuick _
  · exact Laws.EncodingFits.query
  · exact Laws.EncodingFits.complete
  · exact Laws.EncodingFits.page1 _ _
  · exact Laws.EncodingFits.page4 _ _ _ _ _

theorem witness_DecodeOfEncode :
    [Params.reference.fcEee, Params.reference.fcQuick, Params.reference.fcQuery, Params.reference.fcComplete].Nodup := by
  decide

theorem witness_EncodeOfDecode :
    [Params.reference.fcEee, Params.reference.fcQuick, Params.reference.fcQuery, Params.reference.fcComplete].Nodup ∧
    decode Params.reference (.opd 0x00000000000000000000000000000013#128) = .ok .crcFinalize ∧
    decode Params.reference (.eeew 0x10#32 [0x5A#8]) = .ok (.page1 0x10#32 0x5A#8) ∧
    decode Params.reference (.cmdw 0x81771234#32) = .ok .query ∧
    decode Params.reference (.cmdw 0x81AA0040#32) = .ok (.setQuick 64#16) := by decide

theorem top_bit_is_no_encoding (p : Params) (w : Descriptor) (h : opdTop w ≠ 0#8) (i : Instr) : encode p i ≠ .opd w := by
  intro e
  have f := encodingFits i p
  rw [e] at f
  exact h f.2

theorem witness_IllegalDescriptorsFault :
    (∀ w, (gets (.issue (.opd w)) ready).callable ∧ (gets (.issue (.opd w)) ready).inputs = .issue (.opd w) :: []) ∧
    (0x14 < (opdOp 0x15#128).toNat ∧ (opdOp 0#128).toNat = 0) ∧
    ((opdOp 0x03#128).toNat = 0x03 ∧ ready.par.async = false ∧ (opdOp 0x02#128).toNat = 0x02 ∧ readyA.par.async = true ∧
      (opdOp 0x0B#128).toNat = 0x0B ∧ { ready.par with quick := false }.quick = false ∧ (opdOp 0x0C#128).toNat = 0x0C ∧
      { ready.par with cancel := false }.cancel = false ∧ (opdOp 0x0D#128).toNat = 0x0D ∧ ready.par.loadOnStart = false) ∧
    ((opdOp 0x01000000000000000000000000000014#128).toNat = 0x14 ∧
      ∀ i, encode ready.par i ≠ .opd 0x01000000000000000000000000000014#128) :=
  ⟨fun _ => ⟨⟨rfl, rfl⟩, rfl⟩, by decide, by decide, by decide, top_bit_is_no_encoding _ _ (by decide)⟩

theorem witness_IllegalStoresAndCommandsFault :
    (gets (.issue (.eeew 0x10#32 [1#8, 2#8])) ready).callable ∧ [1#8, 2#8].length ≠ 1 ∧ [1#8, 2#8].length ≠ 4 ∧
    (gets (.issue (.eeew 0x10#32 [])) ready).callable ∧
    (gets (.issue (.eeew 0x10#32 (List.replicate 5 1#8))) ready).callable ∧
    (gets (.issue (.cmdw 0x80770000#32)) ready).callable ∧ ready.inflight = .none ∧
    BitVec.extractLsb' 24 8 0x80770000#32 ≠ ready.par.cmdSetfr ∧
    BitVec.extractLsb' 16 8 0x81120000#32 ∉ [ready.par.fcEee, ready.par.fcQuick, ready.par.fcQuery, ready.par.fcComplete] := by
  decide

theorem witness_StepRunsDecoded :
    (gets (.issue (.opd 0x06#128)) readyA).fault = none ∧ decode readyA.par (.opd 0x06#128) = .ok .poll := by decide

theorem witness_FaultIsFinal :
    { ready with fault := some .noRoutine }.fault = some .noRoutine ∧
    ∀ d rest, { ready with fault := some .noRoutine }.inputs ≠ .reset d :: rest :=
  ⟨rfl, fun _ _ h => nomatch h⟩

theorem witness_EveryInstructionAnswers : paging.fault = none := rfl

/-- The build with a progress callback. -/
def called (s : State) : State := { s with par := { s.par with callback := true } }

theorem witness_NestedInvocationFaults :
    (waits 0x0C#8 .ready busy).fault = none ∧ (waits 0x0C#8 .ready busy).pos ≠ .idle ∧
    (called (waits 0x0C#8 .ready busy)).pos ≠ .idle ∧ (called (waits 0x0C#8 .ready busy)).inflight ≠ .none ∧
    (called (waits 0x0C#8 .ready busy)).par.callback = true ∧
    (gets (.callbackBreaks .neverReturns) (called (waits 0x0C#8 .ready busy))).inputs = .callbackBreaks .neverReturns :: [] ∧
    (gets (.callbackBreaks .touches) (called (waits 0x0C#8 .ready ready))).inflight = .none := by decide

/-- A reset of a faulted state in quick mode with a page in flight and dirty bytes, with both draws of READY. -/
theorem witness_ResetEvent :
    Mem.wf quickPaging.nv ∧
    (gets (.reset (resetDraw true)) { quickPaging with fault := some .noRoutine }).inputs = .reset (resetDraw true) :: [] ∧
    (0 ∈ quickPaging.qdirty) ∧ inRange 7 (4#32).toNat 4 ∧ (8 ∉ quickPaging.qdirty) ∧ ¬ inRange 8 (4#32).toNat 4 ∧
    (resetDraw true).ready = true ∧ (resetDraw false).ready = false := by decide

theorem witness_StepKeepsInvariant :
    (gets (.fcComplete clean) quickPaging).Inv ∧
    ∃ t, step (gets (.fcComplete clean) quickPaging) = .next t ∧ t.qdirty = [0, 1, 2, 3, 4, 5, 6, 7] :=
  ⟨{ mem := by decide
     stage := by decide
     nv := by decide
     shadow := by decide
     dirty := by decide
     committed := fun h => nomatch h
     mode := by exact (by decide : windowOk quickly.par 16#16 = true)
     flight := by exact (by decide : (4#32).toNat + 4 ≤ 4096)
     crc := by decide
     issued := fun h => nomatch h
     routine := fun h => absurd rfl h
     pending := fun h => nomatch h
     paging := fun _ _ h => nomatch h
     starting := fun _ _ _ h => nomatch h }, _, rfl, by decide⟩

theorem witness_ControllerStateIsItsOwn :
    (∃ t, step (gets (.issue (.eeew 0x10#32 [1#8])) ready) = .next t ∧ t.inflight ≠ .none) ∧
    (∀ d rest, (gets (.issue (.eeew 0x10#32 [1#8])) ready).inputs ≠ .fcComplete d :: rest) ∧
    ∀ d rest, (gets (.issue (.eeew 0x10#32 [1#8])) ready).inputs ≠ .reset d :: rest :=
  ⟨⟨_, rfl, by decide⟩, fun _ _ h => (by cases h), fun _ _ h => (by cases h)⟩

theorem witness_OnlyReadWritesCallerMemory :
    (∃ t, step (gets (.issue (.opd 0x00000000000001200002000000010107#128)) { ready with stage := [(0x101, 5#8)] }) = .next t ∧
      Mem.read t.mem 0x20000200 ≠ Mem.read ready.mem 0x20000200) ∧
    (∃ t, step (gets (.store 0x20000000#32 [1#8, 2#8]) ready) = .next t ∧
      Mem.read t.mem 0x20000001 ≠ Mem.read ready.mem 0x20000001) :=
  ⟨⟨_, rfl, by decide⟩, ⟨_, rfl, by decide⟩⟩

theorem witness_OnlyPagesWriteStaging :
    (∃ t, step (gets (.fcComplete failing) paging) = .next t ∧ Mem.read t.stage 0xFFD ≠ Mem.read paging.stage 0xFFD) ∧
    (∃ t, step (gets (.reset (resetDraw true)) paging) = .next t ∧ Mem.read t.stage 0xFFC ≠ Mem.read paging.stage 0xFFC) ∧
    (∃ t, step (gets (.issue (.eeew 0xFFF#32 [1#8])) ready) = .next t ∧
      Mem.read t.stage 0xFFF ≠ Mem.read ready.stage 0xFFF) :=
  ⟨⟨_, rfl, by decide⟩, ⟨_, rfl, by decide⟩, ⟨_, rfl, by decide⟩⟩

theorem witness_ShadowAndCrcWriters :
    (∃ t, step (gets (.issue (.opd 0x20D#128)) readyL) = .next t ∧ t.shadow ≠ readyL.shadow) ∧
    (∃ t, step (gets (.issue (.opd 0x3111#128)) ready) = .next t ∧ t.crcSr ≠ ready.crcSr) ∧
    (∀ d rest, (gets (.issue (.opd 0x3111#128)) ready).inputs ≠ .reset d :: rest) ∧
    ∀ d rest, (gets (.issue (.opd 0x20D#128)) readyL).inputs ≠ .reset d :: rest :=
  ⟨⟨_, rfl, by decide⟩, ⟨_, rfl, by decide⟩, fun _ _ h => (by cases h), fun _ _ h => (by cases h)⟩

theorem witness_InputCheckOrder :
    (JobOf (.read 0xFFF#32 0x20000000#32 2#32) 0xFFF#32 2#32 (some 0x20000000#32) none ∧
      opcodeOf (.read 0xFFF#32 0x20000000#32 2#32) = some 0x07#8 ∧ ready.callable ∧ opPresent ready.par 0x07#8 = true ∧
      ready.initDone = true ∧ State.reset.callable ∧ State.reset.initDone = false) ∧
    (ready.par.eeeSize ≤ (0x1000#32).toNat ∧ ¬ ready.par.eeeSize ≤ (0xFFF#32).toNat ∧
      ready.par.eeeSize < (0xFFF#32).toNat + (2#32).toNat ∧ ¬ ready.par.eeeSize < (0xFFF#32).toNat + (1#32).toNat) ∧
    (JobOf (.compare 0x100#32 0#32 4#32) 0x100#32 4#32 (some 0#32) none ∧
      JobOf (.writeS 0x100#32 0xFFFFFFF9#32 8#32) 0x100#32 8#32 (some 0xFFFFFFF9#32) (some 0) ∧
      2 ^ 32 < (0xFFFFFFF9#32).toNat + (8#32).toNat) ∧
    (ready.bufferMeets 0x13FFFFFF#32 2#32 ∧ ready.bufferMeets 0x4002000F#32 1#32 ∧ ready.bufferMeets 0x2000F0FC#32 8#32) ∧
    (JobOf (.eraseA 0#32 4096#32) 0#32 4096#32 none (some 0) ∧ pendingA.callable ∧ opPresent pendingA.par 0x05#8 = true ∧
      pendingA.initDone = true ∧ pendingA.result = .pending) ∧
    (JobOf (.writeA 0x100#32 0xFFFFFFF8#32 8#32) 0x100#32 8#32 (some 0xFFFFFFF8#32) (some 0) ∧
      (0xFFFFFFF8#32).toNat + (8#32).toNat ≤ 2 ^ 32 ∧ ¬ pendingA.bufferMeets 0xFFFFFFF8#32 8#32 ∧
      opPresent pendingA.par 0x03#8 = true ∧ readyA.callable ∧ readyA.result ≠ .pending) :=
  ⟨⟨.read _ _ _, by decide, by decide, by decide, by decide, by decide, by decide⟩, by decide,
    ⟨.compare _ _ _, .writeS _ _ _, by decide⟩,
    ⟨⟨0x14000000, by decide⟩, ⟨0x4002000F, by decide⟩, ⟨0x2000F0FC, by decide⟩⟩,
    ⟨.eraseA _ _, by decide, by decide, by decide, by decide⟩,
    ⟨.writeA _ _ _, by decide, by
      rintro ⟨x, ⟨h1, h2⟩, h⟩
      have h3 : 4294967288 ≤ x := h1
      rcases h with ⟨_, h⟩ | ⟨_, h⟩ | ⟨_, h⟩
      · have h4 : x < 0x14000000 + 4096 := h
        omega
      · have h4 : x < 0x40020000 + 0x10 := h
        omega
      · have h4 : x < 0x2000F000 + 0x100 := h
        omega, by decide⟩⟩

theorem witness_UninitializedIsRejected :
    opcodeOf .quickExit = some 0x0B#8 ∧ beforeInit .quickExit = false ∧ State.reset.callable ∧
    opPresent State.reset.par 0x0B#8 = true ∧ State.reset.initDone = false ∧
    opcodeOf (.writeS 0#32 0#32 0#32) = some 0x02#8 ∧ opPresent State.reset.par 0x02#8 = true := by decide

theorem witness_OfflineTransferFails :
    { ready with mode := .offline }.callable ∧ { ready with mode := .offline }.accepts 0xFF0#32 16#32 ∧
    { ready with mode := .offline }.mode = .offline ∧ ready.par.async = false ∧
    { ready with mode := .offline }.bufferOk 0x20000000#32 16#32 ∧
    { readyA with mode := .offline }.callable ∧ { readyA with mode := .offline }.accepts 0xFF0#32 16#32 ∧
    readyA.par.async = true ∧ { readyA with mode := .offline }.bufferOk 0x20000000#32 16#32 := by decide

theorem witness_CrcResetLoadsInit : ready.callable := by decide

theorem witness_CrcFoldsAreRemainders :
    { ready with crcSr := 0xFFFF#32 }.callable ∧ { ready with crcSr := 0xFFFF#32 }.crcSr.toNat < 2 ^ 16 := by decide

theorem witness_CrcFold16IsTwoFolds :
    { ready with crcSr := 0x1234#32 }.callable ∧ { ready with crcSr := 0x1234#32 }.crcSr.toNat < 2 ^ 16 := by decide

theorem witness_FinalizeFixedPoints : State.reset.callable := by decide

theorem witness_CheckCfgIsItsFolds :
    cfg2.callable ∧ (0x20000000#32 : Word) ≠ 0#32 ∧ cfg2.par.cfgSer = Config.referenceSer ∧
    cfg2.par.cfgLayout = Config.packedLayout ∧ littleEndianAt cfg2.mem 4 (0x20000000#32 + 4#32) = 0x400 ∧
    itemsOfWord 0xFF#32 = [.byte 0xFF#8] ∧ itemsOfWord 0x100#32 = [.half 0x100#16] ∧
    itemsOfWord 0xFFFF#32 = [.half 0xFFFF#16] ∧ itemsOfWord 0x10000#32 = [.half 1#16, .half 0#16] := by decide

set_option maxRecDepth 20000 in
theorem witness_ZeroConfigurationGivesZero :
    zeroCfg.callable ∧ (0x20000000#32 : Word) ≠ 0#32 ∧ zeroCfg.par.crcInit = 0#16 ∧
    (∀ f, zeroCfg.cfgField 0x20000000#32 f = 0#32) ∧ zeroCfg.par.cfgSer = Config.referenceSer ∧
    { zeroCfg with par := { zeroCfg.par with
      cfgSer := [.halfItem (.lit 1#32) (.bin .shr (.field .rdFast) (.lit 16#32))] } }.serKeepsZero :=
  ⟨by decide, by decide, by decide, fun f => by cases f <;> decide, by decide, by simp [State.serKeepsZero, serItems, serValue, exprOp]⟩

theorem witness_CrcKnownAnswer : { ready with crcSr := 0xFFFF#32 }.callable ∧ ready.par.crcInit = 0#16 := by decide

/-- A configuration with a wrong checksum (S3 of 95_test_vectors.md). -/
def badCfg : State := { zeroCfg with mem := [(0x20000014, 1#8), (0x20000015, 0#8)] }

set_option maxRecDepth 20000 in
theorem witness_InitRefusals :
    badCfg.callable ∧ (0x20000000#32 : Word) ≠ 0#32 ∧ badCfg.par.timeout ≠ some 0#32 ∧
    ¬ (badCfg.quick = true ∨ badCfg.result = .pending) ∧
    (crcOfItems badCfg.par.crcInit (badCfg.cfgItems 0x20000000#32)).setWidth 16 ≠ badCfg.cfgStored 0x20000000#32 ∧
    { ready with par := { ready.par with timeout := some 0#32 } }.callable ∧ quickly.callable ∧ quickly.quick = true ∧
    pendingA.callable ∧ pendingA.result = .pending := by decide

/-- The configuration of V-CFG-2 after a reset with READY = 0, a brown-out and work pending: the start of program P2. -/
def powerUp : State := { State.reset with mem := cfg2.mem, boLatch := .normal, pend := 1 }

set_option maxRecDepth 20000 in
theorem cfg2_checksum :
    (crcOfItems cfg2.par.crcInit (cfg2.cfgItems 0x20000000#32)).setWidth 16 = cfg2.cfgStored 0x20000000#32 := by decide

theorem witness_InitLaunchesItsFirstCommand :
    cfg2.callable ∧ cfg2.par.wf = true ∧ (0x20000000#32 : Word) ≠ 0#32 ∧ cfg2.par.timeout ≠ some 0#32 ∧ cfg2.quick = false ∧
    cfg2.result ≠ .pending ∧
    (crcOfItems cfg2.par.crcInit (cfg2.cfgItems 0x20000000#32)).setWidth 16 = cfg2.cfgStored 0x20000000#32 ∧
    cfg2.inflight = .none ∧ cfg2.mode ≠ .offline ∧ powerUp.callable ∧ powerUp.quick = false ∧ powerUp.result ≠ .pending ∧
    powerUp.mode = .offline ∧ { cfg2 with inflight := .cmd .query 0#16 }.callable :=
  ⟨by decide, by decide, by decide, by decide, by decide, by decide, cfg2_checksum, by decide, by decide, by decide, by decide,
    by decide, by decide, by decide⟩

theorem witness_InitRecoversFromBrownOut :
    powerUp.callable ∧ powerUp.par.wf = true ∧ powerUp.par.timeout ≠ some 0#32 ∧ powerUp.quick = false ∧
    powerUp.result ≠ .pending ∧
    (crcOfItems powerUp.par.crcInit (powerUp.cfgItems 0x20000000#32)).setWidth 16 = powerUp.cfgStored 0x20000000#32 ∧
    powerUp.inflight = .none ∧ clean.clean = true ∧ powerUp.ready = false ∧
    (powerUp.boLatch != .none || powerUp.pend != 0) = true ∧ cfg2.ready = true ∧
    (cfg2.boLatch != .none || cfg2.pend != 0) = false ∧ { clean with pend := 5 }.clean = true :=
  ⟨by decide, by decide, by decide, by decide, by decide, cfg2_checksum, by decide, by decide, by decide, by decide, by decide,
    by decide, by decide⟩

theorem witness_InitCommandFailure :
    (gets .seqStep (waits 0x01#8 .initRecheck { ready with cstat := true })).fault = none ∧
    WaitPoint.initRecheck ∈ [WaitPoint.initOnline, .initQuery, .initMaint, .initRecheck] ∧
    { ready with cstat := true }.inError = true ∧ ready.inflight = .none ∧
    (gets .seqStep (waits 0x01#8 .initOnline { busy with tmo := 1#32 })).fault = none ∧ busy.tmo.toNat ≤ 1 ∧
    WaitPoint.initOnline ∈ [WaitPoint.initOnline, .initQuery, .initMaint, .initRecheck] ∧ busy.inflight ≠ .none ∧
    busy.par.timeout ≠ none := by decide

theorem witness_DispatchLaunches :
    (ready.callable ∧ ready.par.wf = true ∧ ready.initDone = true ∧ ready.inflight = .none ∧ busy.callable ∧
      busy.inflight ≠ .none ∧
      0x12#8 ∉ [ready.par.fcEee, ready.par.fcQuick, ready.par.fcQuery, ready.par.fcComplete]) ∧
    (0x00#8 = Command.code ready.par .setEee ∧ 0x77#8 = Command.code ready.par .query ∧
      0x55#8 = Command.code ready.par .complete ∧ 0xAA#8 = Command.code ready.par .setQuick) ∧
    (ready.commandLegal .setQuick 16#16 ∧ ready.commandLegal .setQuick 512#16 ∧ ready.commandLegal .setEee 0#16) ∧
    (¬ ready.commandLegal .setQuick 12#16 ∧ ¬ ready.commandLegal .setQuick 516#16 ∧ ¬ ready.commandLegal .setQuick 18#16) ∧
    (quickly.callable ∧ ¬ quickly.commandLegal .setQuick 16#16) :=
  ⟨by decide, by decide, by decide, by decide, by decide⟩

theorem witness_CommandWordsLaunch :
    ready.callable ∧ ready.par.wf = true ∧ busy.inflight ≠ .none ∧ busy.callable ∧
    { ready with accerr := true }.callable ∧ { ready with accerr := true }.inflight = .none ∧
    ¬ (ready.accerr = true ∨ ready.pviol = true) ∧ ready.commandLegal .setQuick 512#16 ∧
    ¬ ready.commandLegal .setQuick 516#16 := by decide

theorem witness_DispatchReturnsByFlags :
    (gets .seqStep (waits 0x0F#8 .dispatched ready)).fault = none ∧
    (gets .seqStep (waits 0x0F#8 .dispatched ready)).pos = .waiting 0x0F#8 .dispatched ∧ ready.inflight = .none ∧
    (gets .seqStep (waits 0x0F#8 .dispatched { ready with cstat := true })).fault = none := by decide

theorem witness_CommandsComplete :
    (gets (.fcComplete clean) busy).fault = none ∧ busy.par.wf = true ∧ busy.inflight = .cmd .query 0#16 ∧ clean.clean = true ∧
    { State.reset with inflight := .cmd .setEee 0#16 }.mode = .offline ∧
    { ready with inflight := .cmd .setEee 0#16 }.mode = .normal ∧ quickly.mode = .quick 16#16 ∧ Mem.wf quickly.nv ∧
    { ready with inflight := .cmd .setQuick 512#16 }.fault = none ∧
    { ready with inflight := .cmd .complete 0#16, pend := 2 }.fault = none := by decide

theorem witness_ErrorCompletions :
    (gets (.fcComplete failing) ready).fault = none ∧ ready.inflight = .none ∧
    (gets (.fcComplete failing) busy).fault = none ∧ busy.inflight = .cmd .query 0#16 ∧ failing.clean = false ∧
    (gets (.fcComplete failing) paging).fault = none ∧ paging.inflight = .page 0xFFC#32 4 ∧ Mem.wf paging.stage ∧
    Mem.wf paging.nv := by decide

/-- A wait with a budget of three polls, or of one. -/
def budget (n : Word) (w : WaitPoint) : State :=
  { waits 0x0F#8 w busy with tmo := n, inputs := List.replicate n.toNat .seqStep }

theorem witness_WaitExpiresAfterItsBudget :
    (∀ w, (budget 3#32 w).fault = none ∧ (budget 3#32 w).pos = .waiting 0x0F#8 w ∧ (budget 3#32 w).inflight ≠ .none ∧
      (budget 3#32 w).par.timeout ≠ none ∧
      (budget 3#32 w).inputs = List.replicate (max 1 (budget 3#32 w).tmo.toNat) Input.seqStep ++ []) ∧
    (∀ w, (budget 1#32 w).inputs = List.replicate (max 1 (budget 1#32 w).tmo.toNat) Input.seqStep ++ []) ∧
    ∀ w, ({ budget 0#32 w with inputs := [.seqStep] } : State).inputs
      = List.replicate (max 1 (budget 0#32 w).tmo.toNat) Input.seqStep ++ [] :=
  ⟨fun _ => ⟨rfl, rfl, (fun h => nomatch h), (fun h => nomatch h), rfl⟩, fun _ => rfl, fun _ => rfl⟩

/-- A wait without a budget. -/
def endless : State :=
  { waits 0x0F#8 .dispatched busy with par := { busy.par with timeout := none }, inputs := List.replicate 5 .seqStep }

theorem witness_WaitEndsOnlyByItsBudget :
    (budget 3#32 .ready).par.timeout = some 3#32 ∧ (3#32 : Word) ≠ 0#32 ∧ (budget 3#32 .ready).tmo = 3#32 ∧
    (budget 3#32 .ready).inputs = List.replicate (3#32).toNat Input.seqStep ++ [] ∧
    endless.fault = none ∧ endless.pos = .waiting 0x0F#8 .dispatched ∧ endless.inflight ≠ .none ∧
    endless.par.timeout = none ∧ endless.inputs = List.replicate 5 Input.seqStep ++ [] := by decide

theorem witness_PageWritesIssue :
    ready.callable ∧ Mem.wf ready.stage ∧ ready.inflight = .none ∧ ready.mode ≠ .offline ∧ ready.routineMissing = false ∧
    ready.quickMode = false ∧ (0xFFF#32).toNat + 1 ≤ ready.par.eeeSize ∧ (0xFFC#32).toNat % 4 = 0 ∧
    (0xFFC#32).toNat + 4 ≤ ready.par.eeeSize ∧ quickly.callable ∧ quickly.routineMissing = false := by decide

theorem witness_PagePrecheckOrder :
    ready.callable ∧ busy.callable ∧ busy.inflight ≠ .none ∧ { ready with mode := .offline }.callable ∧
    ready.par.eeeSize < (0x1000#32).toNat + 1 ∧ ready.par.eeeSize < (0xFFD#32).toNat + 4 ∧
    ¬ ready.par.eeeSize < (0xFFB#32).toNat + 4 ∧ (0xFFB#32).toNat % 4 ≠ 0 ∧ quickly.callable ∧ quickly.quickMode = true ∧
    { readyL with routine := .erase }.callable ∧ readyL.par.loadOnStart = true ∧ readyL.srckind = .buffer := by decide

theorem witness_PagesComplete :
    (gets (.fcComplete clean) paging).fault = none ∧ Mem.wf paging.nv ∧ paging.inflight = .page 0xFFC#32 4 ∧
    clean.clean = true ∧ paging.quickMode = false ∧ quickPaging.quickMode = true ∧
    (gets (.fcComplete clean) quickPaging).fault = none ∧ quickPaging.inflight = .page 4#32 4 := by decide

theorem witness_SyncTransferStarts :
    ready.callable ∧ ready.par.async = false ∧ ready.accepts 0xFF0#32 16#32 ∧ Mem.wf ready.stage ∧
    ready.bufferOk 0xFFFFFFF0#32 16#32 ∧ ready.pageLegal .write (firstPage 0xFF0#32 16#32) ∧
    ready.pageLegal .erase (firstPage 0xFF0#32 16#32) ∧ ready.accepts 0xFFF#32 1#32 ∧
    ready.pageLegal .write (firstPage 0xFFF#32 1#32) := by decide

/-- The inputs of a synchronous transfer of seven pages (V-WS-1). -/
def sevenPages : List Input := (List.replicate 7 [Input.fcComplete clean, Input.seqStep]).flatten

theorem witness_SyncWriteLaw :
    { ready with inputs := sevenPages }.callable ∧ ready.par.wf = true ∧ ready.par.async = false ∧
    ready.accepts 0x101#32 10#32 ∧ ready.bufferOk 0x20000100#32 10#32 ∧ Mem.wf ready.stage ∧ Mem.wf ready.nv ∧
    ready.transferLegal .write 0x101#32 10#32 ∧ clean.clean = true ∧ pageCount 0x101#32 10#32 = 7 ∧
    sevenPages = (List.replicate (pageCount 0x101#32 10#32) [Input.fcComplete clean, Input.seqStep]).flatten ++ [] ∧
    (quickly.callable ∧ quickly.accepts 0x100#32 28#32 ∧ quickly.transferLegal .write 0x100#32 28#32 ∧
      pageCount 0x100#32 28#32 = 7) := by decide

theorem witness_SyncEraseLaw :
    { ready with inputs := sevenPages }.callable ∧ ready.par.wf = true ∧ ready.par.async = false ∧
    ready.accepts 0x101#32 10#32 ∧ ready.transferLegal .erase 0x101#32 10#32 ∧
    sevenPages = (List.replicate (pageCount 0x101#32 10#32) [Input.fcComplete clean, Input.seqStep]).flatten ++ [] ∧
    quickly.transferLegal .erase 0x100#32 28#32 := by decide

/-- A synchronous write whose first of two pages has completed. -/
def halfWritten : State :=
  gets .seqStep (waits 0x02#8 (.page 5#32) { ready with rem := 5#32, dst := 0x108#32, src := 0x20000000#32, stage := [(0x108, 1#8)] })

theorem witness_SyncPageOutcome :
    (gets .seqStep (waits 0x02#8 (.page 16#32) { ready with rem := 4#32, dst := 0x10C#32 })).fault = none ∧
    ready.inflight = .none ∧ ready.inError = false ∧ 4 = firstPage 0x10C#32 4#32 ∧ (4#32 : Word) - BitVec.ofNat 32 4 = 0#32 ∧
    { ready with coll := true }.inError = true ∧
    (halfWritten.fault = none ∧ halfWritten.pos = .waiting 0x02#8 (.page 5#32) ∧ halfWritten.inflight = .none ∧
      halfWritten.rem - BitVec.ofNat 32 (firstPage halfWritten.dst halfWritten.rem) ≠ 0#32 ∧
      halfWritten.dst.toNat + halfWritten.rem.toNat ≤ halfWritten.par.eeeSize ∧ 0 < halfWritten.rem.toNat ∧
      Mem.wf halfWritten.stage ∧ halfWritten.pageLegal .write (firstPage 0x10C#32 1#32)) := by decide

theorem witness_AsyncTransferStarts :
    readyA.callable ∧ readyA.par.async = true ∧ readyA.accepts 0xFE#32 7#32 ∧ Mem.wf readyA.stage ∧
    readyA.bufferOk 0x20000300#32 7#32 ∧ readyA.pageLegal .write (firstPage 0xFE#32 7#32) ∧
    readyA.pageLegal .erase (firstPage 0xFE#32 7#32) ∧
    ({ readyA with inflight := .page 0#32 4 }.callable ∧ { readyA with inflight := .page 0#32 4 }.accepts 0xFE#32 7#32 ∧
      { readyA with inflight := .page 0#32 4 }.inflight ≠ .none ∧ readyA.mode ≠ .offline ∧
      { readyA.par with timeout := some 1#32 }.timeout = some 1#32 ∧ readyA.par.timeout = some 3#32) := by decide

theorem witness_PollOutcomes :
    readyA.callable ∧ readyA.par.async = true ∧ readyA.initDone = true ∧ readyA.result = .idle ∧
    pendingA.callable ∧ pendingA.result = .pending ∧ pendingA.inflight = .none ∧
    ¬ (pendingA.issued = true ∧ pendingA.inError = true) ∧ pendingA.rem ≠ 0#32 ∧ Mem.wf pendingA.stage ∧
    pendingA.dst.toNat + pendingA.rem.toNat ≤ pendingA.par.eeeSize ∧
    pendingA.pageLegal .write (firstPage pendingA.dst pendingA.rem) ∧ pendingA.srckind = .buffer ∧
    { pendingA with inflight := .page 0#32 1, tmo := 1#32 }.callable ∧
    { pendingA with inflight := .page 0#32 1, tmo := 0#32 }.callable ∧ { pendingA with issued := true, pviol := true }.callable ∧
    { pendingA with rem := 0#32 }.callable ∧ { readyA with result := .ok }.callable ∧ { readyA with result := .failed }.callable ∧
    { readyA with result := .canceled }.callable := by decide

theorem witness_AsyncWorkIsBounded :
    pendingA.callable ∧ (∃ t, exec .poll pendingA = .next t ∧ t.inflight = .page 0x100#32 4) ∧
    (∃ t, exec (.writeA 0xFE#32 0x20000300#32 7#32) readyA = .next t ∧ t.inflight = .page 0xFE#32 1) ∧
    (∃ t, exec (.eraseA 3#32 2#32) readyA = .next t ∧ t.inflight = .page 3#32 1) :=
  ⟨by decide, ⟨_, rfl, by decide⟩, ⟨_, rfl, by decide⟩, ⟨_, rfl, by decide⟩⟩

/-- The inputs of an asynchronous transfer of four pages (program P3). -/
def fourPolls : List Input := (List.replicate 4 [Input.fcComplete clean, Input.issue (encode readyA.par .poll)]).flatten

theorem witness_AsyncTransferLaw :
    { readyA with inputs := fourPolls }.callable ∧ readyA.par.wf = true ∧ readyA.par.async = true ∧
    readyA.accepts 0xFE#32 7#32 ∧ readyA.bufferOk 0x20000300#32 7#32 ∧ Mem.wf readyA.stage ∧ Mem.wf readyA.nv ∧
    readyA.transferLegal .write 0xFE#32 7#32 ∧ readyA.transferLegal .erase 0xFE#32 7#32 ∧ clean.clean = true ∧
    fourPolls =
      (List.replicate (pageCount 0xFE#32 7#32) [Input.fcComplete clean, Input.issue (encode readyA.par .poll)]).flatten ++ [] ∧
    ({ readyA with mode := .quick 16#16, quick := true }.callable ∧
      { readyA with mode := .quick 16#16, quick := true }.accepts 0xFF0#32 16#32 ∧
      { readyA with mode := .quick 16#16, quick := true }.transferLegal .write 0xFF0#32 16#32 ∧
      { readyA with mode := .quick 16#16, quick := true }.bufferOk 0x20000300#32 16#32 ∧ pageCount 0xFF0#32 16#32 = 4) := by
  decide

theorem witness_ReadCopiesTheRange :
    ready.callable ∧ ready.accepts 0xFFF#32 1#32 ∧ ready.bufferOk 0x40020010#32 1#32 ∧ ready.mode ≠ .offline ∧
    ready.inflight = .none ∧ ready.quick = false ∧ Mem.wf ready.mem ∧ busy.callable ∧ busy.accepts 0xFFF#32 1#32 ∧
    quickly.callable ∧ quickly.accepts 0xFFF#32 1#32 ∧ quickly.inflight = .none ∧ quickly.quick = true := by decide

theorem witness_CompareFindsTheFirstDifference :
    ready.callable ∧ ready.accepts 0x100#32 4#32 ∧ ready.bufferOk 0x20000000#32 4#32 ∧ ready.mode ≠ .offline ∧
    ready.inflight = .none ∧ ready.quick = false ∧
    (∀ i < (4#32).toNat, Mem.read ready.stage ((0x100#32).toNat + i) = Mem.read ready.mem ((0x20000000#32).toNat + i)) ∧
    (2 < (4#32).toNat ∧ Mem.read [(0x102, 0x33#8)] 0x102 ≠ Mem.read ready.mem 0x20000002 ∧
      ∀ i < 2, Mem.read [(0x102, 0x33#8)] (0x100 + i) = Mem.read ready.mem (0x20000000 + i)) ∧
    busy.inflight ≠ .none ∧ busy.accepts 0x100#32 4#32 ∧ quickly.quick = true ∧ quickly.accepts 0x100#32 4#32 := by decide

theorem witness_QuickCheckOrder :
    ready.callable ∧ ready.par.quick = true ∧ ready.initDone = true ∧ (15#16).toNat < ready.par.qwMin ∧
    ready.par.qwMax < (516#16).toNat ∧ (18#16).toNat % ready.par.qwStep ≠ 0 ∧
    ¬ ((512#16).toNat < ready.par.qwMin ∨ ready.par.qwMax < (512#16).toNat ∨ (512#16).toNat % ready.par.qwStep ≠ 0) ∧
    (0x102#32).toNat % 4 ≠ 0 ∧ (0x20000002#32).toNat % 4 ≠ 0 ∧ (100#32).toNat % (64#16).toNat ≠ 0 ∧
    (0x100#32).toNat % 4 = 0 ∧ (512#32).toNat % (512#16).toNat = 0 := by decide

theorem witness_QuickEnterLaunches :
    ready.callable ∧ ready.par.wf = true ∧ ready.par.quick = true ∧ ready.initDone = true ∧ ready.quick = false ∧
    ready.inflight = .none ∧ ready.mode = .normal ∧ quickly.callable ∧ quickly.quick = true ∧ busy.callable ∧
    busy.inflight ≠ .none ∧ { quickly with quick := false }.callable ∧ { quickly with quick := false }.mode ≠ .normal := by
  decide

theorem witness_QuickEnterOutcomes :
    (gets .seqStep (waits 0x0A#8 .quickEnter ready)).fault = none ∧ ready.par.wf = true ∧
    (gets .seqStep (waits 0x0A#8 .quickEnter ready)).pos = .waiting 0x0A#8 .quickEnter ∧ ready.inflight = .none ∧
    ready.inError = false ∧ { ready with accerr := true }.inError = true ∧ busy.inflight ≠ .none ∧ busy.par.timeout ≠ none ∧
    { busy with tmo := 1#32 }.tmo.toNat ≤ 1 ∧ (gets .seqStep (waits 0x0A#8 .quickFallback busy)).fault = none ∧
    (gets .seqStep (waits 0x0A#8 .quickFallback ready)).pos = .waiting 0x0A#8 .quickFallback := by decide

/-- In quick mode with four dirty bytes; SET_EEE completes and is polled. -/
def leaving : State :=
  { quickly with qdirty := [0, 1, 2, 3], stage := [(0, 9#8)], inputs := [Input.fcComplete clean, Input.seqStep] }

theorem witness_QuickExitCommits :
    (leaving.fault = none ∧ leaving.pos = .idle ∧ leaving.par.wf = true ∧ leaving.par.quick = true ∧ leaving.initDone = true ∧
      leaving.quickMode = true ∧ leaving.inflight = .none ∧ Mem.wf leaving.nv ∧ clean.clean = true ∧
      leaving.inputs = [Input.fcComplete clean, Input.seqStep] ++ []) ∧
    ({ leaving with mode := .normal, quick := false }.fault = none ∧ { leaving with mode := .offline }.mode = .offline ∧
      { leaving with inflight := .page 0#32 4 }.inflight ≠ .none) ∧
    ((gets .seqStep (waits 0x0B#8 .quickExit quickly)).pos = .waiting 0x0B#8 .quickExit ∧ quickly.inflight = .none ∧
      { quickly with accerr := true }.inError = true ∧
      (gets .seqStep (waits 0x0B#8 .quickExit { busy with tmo := 1#32 })).fault = none ∧ busy.par.timeout ≠ none ∧
      { busy with tmo := 1#32 }.tmo.toNat ≤ 1) := by decide

/-- WAIT_READY at the poll after the page of a PENDING transfer has completed (V-WR-1). -/
def settled : State := gets .seqStep (waits 0x0C#8 .ready { pendingA with issued := true, accerr := true })

theorem witness_WaitReadyCancels :
    pendingA.callable ∧ pendingA.par.cancel = true ∧ pendingA.initDone = true ∧ pendingA.quick = false ∧
    quickly.callable ∧ quickly.quick = true ∧
    (settled.fault = none ∧ settled.pos = .waiting 0x0C#8 .ready ∧ settled.inflight = .none ∧
      settled.inputs = .seqStep :: [] ∧ settled.result = .pending) := by decide

theorem witness_RoutineLoadFillsTheShadow :
    readyL.callable ∧ readyL.par.loadOnStart = true ∧ readyL.initDone = true ∧
    ((2#8 : Byte) = 1#8 ∧ readyL.par.writeRoutine = readyL.par.eraseRoutine ∧ Routine.write = Routine.erase ∨
      (2#8 : Byte) = 2#8 ∧ readyL.par.writeRoutine = readyL.par.writeRoutine ∧ Routine.write = Routine.write) ∧
    ((3#8 : Byte) ≠ 1#8 ∧ (3#8 : Byte) ≠ 2#8) ∧ ((0#8 : Byte) ≠ 1#8 ∧ (0#8 : Byte) ≠ 2#8) := by decide

/-- CMDPARAM holds this command word with a window of 16. -/
def loadedWith (cmd fc : Byte) (s : State) : State :=
  { s with cmdparam := (((s.cmdparam.set 0 cmd).set 1 fc).set 4 0#8).set 5 16#8 }

theorem witness_ControllerRegisterAccess :
    (ready.fault = none ∧ ready.par.wf = true ∧ ready.registersApart ∧
      ¬ inRange (0x40020000#32).toNat ready.par.flexramBase.toNat ready.par.eeeSize ∧
      (0x40020000#32).toNat = ready.par.ctrlBase.toNat + ready.par.offStatus ∧ ready.par.offStatus < ready.par.ctrlSize) ∧
    (BitVec.getLsbD 0x70#8 ready.par.bitCc = false ∧ BitVec.getLsbD 0x80#8 ready.par.bitCc = true ∧ busy.inflight ≠ .none ∧
      ready.inflight = .none) ∧
    ((loadedWith 0x80#8 0x77#8 ready).cmdparam[ready.par.slotCmd] ≠ ready.par.cmdSetfr ∧
      (loadedWith 0x81#8 0x12#8 ready).cmdparam[ready.par.slotFc]
        ∉ [ready.par.fcEee, ready.par.fcQuick, ready.par.fcQuery, ready.par.fcComplete]) ∧
    ((loadedWith 0x81#8 0xAA#8 ready).cmdparam[ready.par.slotCmd] = ready.par.cmdSetfr ∧
      (loadedWith 0x81#8 0xAA#8 ready).cmdparam[ready.par.slotFc] = Command.code ready.par .setQuick ∧
      ready.commandLegal .setQuick 16#16 ∧ ¬ quickly.commandLegal .setQuick 16#16 ∧
      ({ ready with pviol := true }.pviol && !BitVec.getLsbD 0x80#8 ready.par.bitPviol) = true) ∧
    ((0x40020001#32).toNat = ready.par.ctrlBase.toNat + ready.par.offConfig ∧ ready.par.offConfig < ready.par.ctrlSize) ∧
    ((0x4002000C#32).toNat = ready.par.ctrlBase.toNat + ready.par.offCmdparam[(11 : Fin 12)] ∧
      ready.par.offCmdparam[(11 : Fin 12)] < ready.par.ctrlSize) := by decide

theorem witness_OutsideAccessFaults :
    ready.fault = none ∧ (∃ x, inRange x (0x13FFFFFF#32).toNat 2 ∧ inRange x ready.par.flexramBase.toNat ready.par.eeeSize) ∧
    busy.inflight ≠ .none ∧ (∃ x, inRange x (0x14000FFF#32).toNat 1 ∧ inRange x busy.par.flexramBase.toNat busy.par.eeeSize) ∧
    ¬ inRange (0x40020007#32).toNat busy.par.flexramBase.toNat busy.par.eeeSize ∧
    busy.par.offCmdparam[(0 : Fin 12)] < busy.par.ctrlSize ∧ busy.par.offCmdparam[(0 : Fin 12)] ≠ busy.par.offStatus ∧
    (0x40020007#32).toNat = busy.par.ctrlBase.toNat + busy.par.offCmdparam[(0 : Fin 12)] :=
  ⟨by decide, ⟨0x14000000, by decide⟩, by decide, ⟨0x14000FFF, by decide⟩, by decide, by decide, by decide, by decide⟩

theorem witness_EventsAreOnlyAdded :
    ∃ t, step (gets .seqStep (waits 0x0F#8 .dispatched { busy with tmo := 1#32 })) = .next t ∧ t.det.length = 1 :=
  ⟨_, rfl, by decide⟩

end Sys2Proof.Tests
end

section
/-! SUPPORT. What one step is, once for all statements: who moves, and what the state after it is. -/

namespace Sys2Proof.Machine

/-- Everything a step that goes on can be (20_memory.md R70, 70_reset_and_hazards.md R450): one case for each entry of the
inputs, with the state it leaves. A recorded fault leaves a reset alone (60_exceptions.md R408). -/
inductive State.Moves (s : State) : State → Prop
  | reset {d : ResetDraw} {rest : List Input} (hin : s.inputs = .reset d :: rest) :
      s.Moves ({ s with inputs := rest }.afterReset d)
  | exhausted (hf : s.fault = none) (hin : s.inputs = []) : s.Moves s.sequencerStep
  | sequencer {rest : List Input} (hf : s.fault = none) (hin : s.inputs = .seqStep :: rest) :
      s.Moves { s with inputs := rest }.sequencerStep
  | controller {d : FcDraw} {rest : List Input} (hf : s.fault = none) (hin : s.inputs = .fcComplete d :: rest) :
      s.Moves ({ s with inputs := rest }.fcComplete d)
  | instruction {w : IssueWord} {rest : List Input} {i : Instr} {t : State} (hf : s.fault = none)
      (hin : s.inputs = .issue w :: rest) (hdec : decode s.par w = .ok i)
      (hexec : exec i { s with inputs := rest } = .next t) : s.Moves t
  | undecoded {w : IssueWord} {rest : List Input} {e : DecodeError} (hf : s.fault = none)
      (hin : s.inputs = .issue w :: rest) (hdec : decode s.par w = .error e) :
      s.Moves ({ s with inputs := rest }.raise (if s.pos = Pos.idle then s.decodeFault e else .reentry))
  | breach {how : CallbackBreach} {rest : List Input} (hf : s.fault = none)
      (hin : s.inputs = .callbackBreaks how :: rest) : s.Moves ({ s with inputs := rest }.callbackBreach how)
  | load {a : Word} {n : Nat} {rest : List Input} {t : State} (hf : s.fault = none)
      (hin : s.inputs = .load a n :: rest) (hload : { s with inputs := rest }.cpuLoad a n = .next t) : s.Moves t
  | store {a : Word} {data : List Byte} {rest : List Input} {t : State} (hf : s.fault = none)
      (hin : s.inputs = .store a data :: rest) (hstore : { s with inputs := rest }.cpuStore a data = .next t) : s.Moves t

theorem State.faultedStep_moves {s t : State} {r : Fault} (h : s.faultedStep r = .next t) : s.Moves t := by
  unfold State.faultedStep at h
  split at h
  · next d rest hin =>
    cases h
    exact .reset hin
  · cases h

theorem step_of_run {s u : State} {i : Instr} (h : s.nextAction = .run i u) : step s = exec i u := by
  rw [step, h]

theorem step_of_other {s : State} {o : Host.Outcome State Fault Refusal} (h : s.nextAction = .other o) : step s = o := by
  rw [step, h]

theorem State.present_of_ok {s : State} {w : IssueWord} {i : Instr} (h : decode s.par w = .ok i) :
    s.present w = .run i s := by
  rw [State.present, h]

theorem State.present_of_error {s : State} {w : IssueWord} {e : DecodeError} (h : decode s.par w = .error e) :
    s.present w = .other (.next (s.raise (if s.pos = .idle then s.decodeFault e else .reentry))) := by
  rw [State.present, h]
  by_cases hp : s.pos = .idle <;> simp [hp]

/-- A presented form is an instruction that runs, or raises a fault (30_encoding.md R98). -/
theorem State.issue_moves {s t : State} {w : IssueWord} {rest : List Input} (hf : s.fault = none)
    (hin : s.inputs = .issue w :: rest) (hact : s.nextAction = State.present w { s with inputs := rest })
    (h : step s = .next t) : s.Moves t := by
  cases hdec : decode s.par w with
  | ok i =>
    rw [step_of_run (hact.trans (State.present_of_ok hdec))] at h
    exact .instruction hf hin hdec h
  | error e =>
    rw [step_of_other (hact.trans (State.present_of_error hdec))] at h
    cases h
    exact .undecoded hf hin hdec

theorem step_moves {s t : State} (h : step s = .next t) : s.Moves t := by
  generalize hact : s.nextAction = act
  have hact' := hact
  unfold State.nextAction at hact
  split at hact
  · subst hact
    exact State.faultedStep_moves (step_of_other hact' ▸ h)
  · next hf =>
    split at hact
    case h_4 w rest hin => exact State.issue_moves hf hin (hact'.trans hact.symm) h
    all_goals
      subst hact
      rw [step_of_other hact'] at h
    case h_1 => cases h; exact .exhausted hf ‹_›
    case h_2 => cases h; exact .sequencer hf ‹_›
    case h_3 => cases h; exact .controller hf ‹_›
    case h_5 => cases h; exact .reset ‹_›
    case h_6 => cases h; exact .breach hf ‹_›
    case h_7 => exact .load hf ‹_› h
    case h_8 => exact .store hf ‹_› h

end Sys2Proof.Machine
end

section
/-! SUPPORT. The ledger of a state: the parameters, what only the controller holds, and the events emitted. Every operation
outside the controller's step and reset leaves it, but for the events it reports. -/

namespace Sys2Proof.Machine

/-- The parameters, the controller's own state (00_scope.md R11, 10_state.md R48) and the two event lists (00_scope.md R10). -/
structure Ledger where
  par : Params
  mode : FlexMode
  nv : Mem
  qdirty : List Nat
  pend : Nat
  boLatch : BoCode
  configRest : Byte
  det : List DetEvent
  dem : List DemEvent

def State.ledger (s : State) : Ledger :=
  ⟨s.par, s.mode, s.nv, s.qdirty, s.pend, s.boLatch, s.configRest, s.det, s.dem⟩

/-- The four events of REPORT_BO, in its order (43_init_brownout.md R237). -/
def brownOutEvents (bo : BoSeen) : List DemEvent :=
  [⟨.boMaint, decide (bo = .code .maint)⟩, ⟨.boQuick, decide (bo = .code .quick)⟩,
    ⟨.boNormal, decide (bo = .code .normal)⟩, ⟨.boUnknown, decide (bo = .unknown)⟩]

/-- One development-error event, where its sink is enabled. -/
def Ledger.addDet (op : Byte) (c : DetCode) (l : Ledger) : Ledger :=
  { l with det := if l.par.det then l.det ++ [⟨l.par.detModule, l.par.detInstance, op, c⟩] else l.det }

/-- The four brown-out events, where their sink is enabled. -/
def Ledger.addBrownOut (bo : BoSeen) (l : Ledger) : Ledger :=
  { l with dem := if l.par.dem then l.dem ++ brownOutEvents bo else l.dem }

/-- What an operation, a poll or a CPU access may do to the ledger: nothing, one development error, or one brown-out
report, and never two of these in one step. -/
inductive Ledger.Reports (l : Ledger) : Ledger → Prop
  | silent : l.Reports l
  | det (op : Byte) (c : DetCode) : l.Reports (l.addDet op c)
  | brownOut (bo : BoSeen) : l.Reports (l.addBrownOut bo)

theorem Ledger.Reports.of_eq {l m : Ledger} (h : m = l) : l.Reports m := h ▸ .silent

theorem Ledger.Reports.congr_left {l k m : Ledger} (h : k.Reports m) (e : k = l) : l.Reports m := e ▸ h

/-! The updates of the state that report nothing. -/

@[simp] theorem State.raise_ledger (r : Fault) (s : State) : (s.raise r).ledger = s.ledger := rfl
@[simp] theorem State.finish_ledger (st : Status) (n : Option Nat) (s : State) : (s.finish st n).ledger = s.ledger := rfl
@[simp] theorem State.clearFlags_ledger (w : StatusWrite) (s : State) : (s.clearFlags w).ledger = s.ledger := rfl
@[simp] theorem State.w1c_ledger (s : State) : s.w1c.ledger = s.ledger := rfl
@[simp] theorem State.setSlot_ledger (k : Fin 12) (v : Byte) (s : State) : (s.setSlot k v).ledger = s.ledger := rfl
@[simp] theorem State.startWait_ledger (op : Byte) (w : WaitPoint) (s : State) : (s.startWait op w).ledger = s.ledger := rfl
@[simp] theorem State.advance_ledger (n : Nat) (s : State) : (s.advance n).ledger = s.ledger := rfl
@[simp] theorem State.copyOut_ledger (src dst len : Word) (s : State) : (s.copyOut src dst len).ledger = s.ledger := rfl
@[simp] theorem State.loadTransfer_ledger (dst len : Word) (src : Option Word) (s : State) :
    (s.loadTransfer dst len src).ledger = s.ledger := rfl
@[simp] theorem State.initDoneStep_ledger (s : State) : s.initDoneStep.ledger = s.ledger := rfl

/-! The updates that report. -/

@[simp] theorem State.signalDet_ledger (op : Byte) (c : DetCode) (s : State) :
    (s.signalDet op c).ledger = s.ledger.addDet op c := rfl
@[simp] theorem State.reject_ledger (op : Byte) (c : DetCode) (n : Option Nat) (s : State) :
    (s.reject op c n).ledger = s.ledger.addDet op c := rfl

theorem State.reportBo_ledger (bo : BoSeen) (s : State) : (s.reportBo bo).ledger = s.ledger.addBrownOut bo := by
  cases hd : s.par.dem <;>
    simp [State.ledger, Ledger.addBrownOut, State.reportBo, State.signalDem, brownOutEvents, hd]

/-! Branches. -/

theorem State.ifSound_ledger (s : State) {f : State → State} (hf : (f s).ledger = s.ledger) :
    (s.ifSound f).ledger = s.ledger := by
  rcases State.ifSound_cases s f with ⟨-, e⟩ | ⟨-, e⟩ <;> rw [e]
  exact hf

theorem State.whenInit_reports {op : Byte} {n : Option Nat} {body : State → State} {s : State}
    (hb : s.ledger.Reports (body s).ledger) : s.ledger.Reports (s.whenInit op n body).ledger := by
  unfold State.whenInit
  split
  · exact hb
  · exact .det op .uninit

theorem State.whenJob_reports {op : Byte} {n : Option Nat} {c : JobCheck} {body : State → State} {s : State}
    (hb : s.ledger.Reports (body s).ledger) : s.ledger.Reports (s.whenJob op n c body).ledger := by
  cases c with
  | accept => exact hb
  | reject d => exact .det op d
  | stop r => exact .silent

theorem State.invoke_reports {op : Byte} {body : State → State} {s t : State} (h : s.invoke op body = .next t)
    (hb : ∀ u : State, u.ledger.Reports (body u).ledger) : s.ledger.Reports t.ledger := by
  rcases State.invoke_cases h with ⟨-, ⟨-, -, rfl⟩ | ⟨-, -, rfl⟩ | ⟨-, rfl⟩⟩
  · exact hb { s with ret := none }
  · exact .silent
  · exact .silent

theorem State.invoke_reports_of_silent {op : Byte} {body : State → State} {s t : State}
    (h : s.invoke op body = .next t) (hb : ∀ u : State, (body u).ledger = u.ledger) : s.ledger.Reports t.ledger :=
  State.invoke_reports h fun u => .of_eq (hb u)

theorem State.issueRaw_reports {body : State → State} {s t : State} (h : s.issueRaw body = .next t)
    (hb : (body s).ledger = s.ledger) : s.ledger.Reports t.ledger := by
  rcases State.issueRaw_cases h with ⟨-, ⟨-, rfl⟩ | ⟨-, rfl⟩⟩
  · exact .of_eq hb
  · exact .silent

/-! Commands and pages: launching and issuing report nothing; what is in flight is not the controller's own. -/

@[simp] theorem State.writeParam_ledger (k : Fin 12) (v : Byte) (s : State) : (s.writeParam k v).ledger = s.ledger := by
  unfold State.writeParam
  split <;> rfl

@[simp] theorem State.launch_ledger (s : State) : s.launch.ledger = s.ledger := by
  rcases State.launch_cases s with ⟨r, -, e⟩ | ⟨c, -, -, -, -, e⟩ <;> rw [e] <;> rfl

@[simp] theorem State.writeStatus_ledger (w : StatusWrite) (s : State) : (s.writeStatus w).ledger = s.ledger := by
  simp only [State.writeStatus]
  split
  · split <;> simp
  · rfl

@[simp] theorem State.issueCommand_ledger (fcode : Byte) (len : Half) (s : State) :
    (s.issueCommand fcode len).ledger = s.ledger := by
  rcases State.issueCommand_cases fcode len s with ⟨-, e⟩ | ⟨-, v, ⟨r, -, e⟩ | ⟨c, l, -, e⟩⟩ <;> rw [e] <;> rfl

@[simp] theorem State.dispatchCommand_ledger (op : Byte) (w : WaitPoint) (fcode : Byte) (len : Half) (s : State) :
    (s.dispatchCommand op w fcode len).ledger = s.ledger := by
  unfold State.dispatchCommand
  split
  · rfl
  · rw [State.ifSound_ledger _ (State.startWait_ledger op w _)]
    simp

@[simp] theorem State.issuePage_ledger (a : Word) (bytes : List Byte) (s : State) :
    (s.issuePage a bytes).ledger = s.ledger := by
  rcases State.issuePage_cases a bytes s with ⟨r, -, e⟩ | ⟨-, e⟩ <;> rw [e] <;> rfl

/-! INIT (43_init_brownout.md R230). -/

@[simp] theorem State.initQueryStep_ledger (s : State) : s.initQueryStep.ledger = s.ledger :=
  State.dispatchCommand_ledger ..

@[simp] theorem State.initOnlineStep_ledger (s : State) : s.initOnlineStep.ledger = s.ledger := by
  unfold State.initOnlineStep
  split <;> simp

theorem State.initReportStep_reports (s : State) : s.ledger.Reports s.initReportStep.ledger := by
  have hreport : s.initReportStep.ledger = s.ledger.addBrownOut (decodeBo s.par (s.slot s.par.slotBo)) := by
    simp only [State.initReportStep]
    split
    · rw [State.dispatchCommand_ledger, State.reportBo_ledger]
      rfl
    · rw [State.initDoneStep_ledger, State.reportBo_ledger]
      rfl
  rw [hreport]
  exact .brownOut _

theorem State.initCheckStep_reports (cfg : Word) (s : State) : s.ledger.Reports (s.initCheckStep cfg).ledger := by
  unfold State.initCheckStep
  split
  · exact .of_eq (State.initOnlineStep_ledger _)
  · exact .det 0x01#8 .cfgCrc

/-! Synchronous and asynchronous transfers (41_write_paths.md). -/

@[simp] theorem State.writeLoop_ledger (op : Byte) (len : Word) (s : State) : (s.writeLoop op len).ledger = s.ledger := by
  unfold State.writeLoop
  split
  · rfl
  · rw [State.ifSound_ledger _ (State.startWait_ledger ..), State.issuePage_ledger]

@[simp] theorem State.startSync_ledger (op : Byte) (dst len : Word) (src : Option Word) (s : State) :
    (s.startSync op dst len src).ledger = s.ledger := by
  unfold State.startSync
  split <;> simp

theorem State.afterPage_reports (op : Byte) (len : Word) (expired : Bool) (s : State) :
    s.ledger.Reports (s.afterPage op len expired).ledger := by
  unfold State.afterPage
  split
  · exact .det op .timeout
  · split
    · exact .silent
    · exact .of_eq (by simp)

theorem State.asyncBusy_reports (op : Byte) (s : State) : s.ledger.Reports (s.asyncBusy op).ledger := by
  unfold State.asyncBusy
  split
  · exact .silent
  · split
    · exact .det op .timeout
    · exact .silent

@[simp] theorem State.asyncIssue_ledger (n : Nat) (s : State) : (s.asyncIssue n).ledger = s.ledger := by
  unfold State.asyncIssue
  rw [State.ifSound_ledger _ rfl, State.issuePage_ledger]

theorem State.asyncStep_reports (op : Byte) (s : State) : s.ledger.Reports (s.asyncStep op).ledger := by
  unfold State.asyncStep
  split
  · exact State.asyncBusy_reports op s
  · split
    · exact .silent
    · split
      · exact .silent
      · exact .of_eq (State.asyncIssue_ledger _ _)

theorem State.startAsync_reports (op : Byte) (dst len : Word) (src : Option Word) (s : State) :
    s.ledger.Reports (s.startAsync op dst len src).ledger := by
  unfold State.startAsync
  split
  · exact (State.asyncStep_reports op _).congr_left rfl
  · exact .silent

theorem State.pollResult_reports (s : State) : s.ledger.Reports s.pollResult.ledger := by
  unfold State.pollResult
  cases s.result with
  | pending => exact State.asyncStep_reports _ s
  | ok => exact .silent
  | failed => exact .silent
  | canceled => exact .silent
  | idle => exact .silent

/-! READ, COMPARE and the access routine (42_read_compare.md, 44_quick_writes_wait.md). -/

theorem State.whenReadable_ledger {body : State → State} {s : State} (hb : (body s).ledger = s.ledger) :
    (s.whenReadable body).ledger = s.ledger := by
  unfold State.whenReadable
  split
  · rfl
  · split
    · rfl
    · split
      · rfl
      · exact hb

theorem State.compareOut_ledger (src buf len : Word) (s : State) : (s.compareOut src buf len).ledger = s.ledger := by
  unfold State.compareOut
  split <;> rfl

/-! Quick writes (44_quick_writes_wait.md R270, R272). -/

theorem State.quickCheckStep_reports (dst src len : Word) (w : Half) (s : State) :
    s.ledger.Reports (s.quickCheckStep dst src len w).ledger := by
  unfold State.quickCheckStep
  split
  · exact .det 0x09#8 .paramQuick
  · split
    · exact .det 0x09#8 .paramAddress
    · split
      · exact .det 0x09#8 .paramPointer
      · split
        · exact .det 0x09#8 .paramLength
        · exact .silent

theorem State.quickEnterStep_reports (w : Half) (s : State) : s.ledger.Reports (s.quickEnterStep w).ledger := by
  unfold State.quickEnterStep
  split
  · exact .det 0x0A#8 .paramQuick
  · split
    · exact .det 0x0A#8 .busy
    · exact .of_eq (State.dispatchCommand_ledger ..)

theorem State.waitReadyStep_reports (s : State) : s.ledger.Reports s.waitReadyStep.ledger := by
  unfold State.waitReadyStep
  split
  · exact .det 0x0C#8 .cancelQuick
  · exact .silent

theorem State.afterReady_reports (op : Byte) (expired : Bool) (s : State) :
    s.ledger.Reports (s.afterReady op expired).ledger := by
  unfold State.afterReady
  split
  · exact .det op .timeout
  · exact .silent

/-! The end of a wait (40_dispatch_polling.md R136, R139). -/

/-- A waited command that expires reports its timeout, so its operation must then report nothing more; one that ends by
CC may. -/
theorem State.commandEnd_reports {op : Byte} {expired : Bool} {k : Status → State → State} {s : State}
    (hfailed : ∀ u : State, (k .failed u).ledger = u.ledger) (hk : s.ledger.Reports (k s.flagCheck s).ledger) :
    s.ledger.Reports (s.commandEnd op expired k).ledger := by
  cases expired with
  | true =>
    rw [show s.commandEnd op true k = k .failed (s.signalDet op .timeout) from rfl, hfailed]
    exact .det op .timeout
  | false => exact hk

theorem State.commandEnd_reports_of_silent {op : Byte} {expired : Bool} {k : Status → State → State} {s : State}
    (hk : ∀ (st : Status) (u : State), (k st u).ledger = u.ledger) :
    s.ledger.Reports (s.commandEnd op expired k).ledger :=
  State.commandEnd_reports (hk .failed) (.of_eq (hk _ s))

theorem State.afterInitOnline_ledger (st : Status) (s : State) : (s.afterInitOnline st).ledger = s.ledger := by
  unfold State.afterInitOnline
  split <;> simp

theorem State.afterInitQuery_reports (st : Status) (s : State) : s.ledger.Reports (s.afterInitQuery st).ledger := by
  unfold State.afterInitQuery
  split
  · exact State.initReportStep_reports s
  · exact .silent

theorem State.afterInitMaint_ledger (st : Status) (s : State) : (s.afterInitMaint st).ledger = s.ledger := by
  unfold State.afterInitMaint
  split <;> simp

theorem State.afterInitRecheck_ledger (st : Status) (s : State) : (s.afterInitRecheck st).ledger = s.ledger := by
  unfold State.afterInitRecheck
  split <;> simp

theorem State.afterQuickEnter_ledger (st : Status) (s : State) : (s.afterQuickEnter st).ledger = s.ledger := by
  unfold State.afterQuickEnter
  split
  · rfl
  · split <;> simp

theorem State.afterQuickFallback_ledger (st : Status) (s : State) : (s.afterQuickFallback st).ledger = s.ledger := by
  unfold State.afterQuickFallback
  split <;> rfl

theorem State.afterQuickExit_ledger (st : Status) (s : State) : (s.afterQuickExit st).ledger = s.ledger := by
  unfold State.afterQuickExit
  split <;> rfl

theorem State.afterWait_reports (op : Byte) (w : WaitPoint) (expired : Bool) (s : State) :
    s.ledger.Reports (s.afterWait op w expired).ledger := by
  cases w with
  | dispatched => exact State.commandEnd_reports_of_silent fun _ _ => rfl
  | initOnline => exact State.commandEnd_reports_of_silent State.afterInitOnline_ledger
  | initQuery => exact State.commandEnd_reports (fun _ => rfl) (State.afterInitQuery_reports _ s)
  | initMaint => exact State.commandEnd_reports_of_silent State.afterInitMaint_ledger
  | initRecheck => exact State.commandEnd_reports_of_silent State.afterInitRecheck_ledger
  | quickEnter => exact State.commandEnd_reports_of_silent State.afterQuickEnter_ledger
  | quickFallback => exact State.commandEnd_reports_of_silent State.afterQuickFallback_ledger
  | quickExit => exact State.commandEnd_reports_of_silent State.afterQuickExit_ledger
  | page len => exact State.afterPage_reports op len expired s
  | ready => exact State.afterReady_reports op expired s

theorem State.pollIteration_reports (op : Byte) (w : WaitPoint) (s : State) :
    s.ledger.Reports (s.pollIteration op w).ledger := by
  unfold State.pollIteration
  split
  · split
    · exact .silent
    · split
      · exact State.afterWait_reports op w true s.callCallback.countDown
      · exact .silent
  · exact State.afterWait_reports op w false s

theorem State.sequencerStep_reports (s : State) : s.ledger.Reports s.sequencerStep.ledger := by
  unfold State.sequencerStep
  split
  · exact .silent
  · exact State.pollIteration_reports _ _ s

/-! What is no instruction. -/

theorem State.callbackBreach_ledger (how : CallbackBreach) (s : State) : (s.callbackBreach how).ledger = s.ledger := by
  unfold State.callbackBreach
  split
  · rfl
  · split <;> rfl

theorem State.cpuLoad_ledger {a : Word} {n : Nat} {s t : State} (h : s.cpuLoad a n = .next t) : t.ledger = s.ledger := by
  unfold State.cpuLoad at h
  split at h
  · cases h; rfl
  · split at h
    · split at h
      · cases h; rfl
      · cases h
    · split at h
      · cases h
      · cases h; rfl

theorem State.storeRegister_ledger {off : Nat} {v : Byte} {s t : State} (h : s.storeRegister off v = .next t) :
    t.ledger = s.ledger := by
  unfold State.storeRegister at h
  split at h
  · cases h; simp
  · split at h
    · cases h; simp
    · cases h

theorem State.cpuStore_ledger {a : Word} {data : List Byte} {s t : State} (h : s.cpuStore a data = .next t) :
    t.ledger = s.ledger := by
  unfold State.cpuStore at h
  split at h
  · cases h; rfl
  · split at h
    · split at h
      · exact State.storeRegister_ledger h
      · cases h
    · split at h
      · cases h
      · cases h; rfl

/-! Every instruction. -/

theorem execInit_reports {cfg : Word} {s t : State} (h : execInit cfg s = .next t) : s.ledger.Reports t.ledger := by
  refine State.invoke_reports h fun u => ?_
  split
  · exact .det 0x01#8 .paramConfig
  · split
    · exact .silent
    · split
      · exact .silent
      · exact State.initCheckStep_reports cfg (u.checkCfg cfg)

theorem execCrcCheckCfg_reports {cfg : Word} {s t : State} (h : execCrcCheckCfg cfg s = .next t) :
    s.ledger.Reports t.ledger := by
  refine State.invoke_reports h fun u => ?_
  split
  · exact .silent
  · split <;> exact .silent

theorem execRoutineLoad_reports {kind : Byte} {s t : State} (h : execRoutineLoad kind s = .next t) :
    s.ledger.Reports t.ledger := by
  refine State.invoke_reports h fun u => State.whenInit_reports ?_
  split <;> exact .silent

theorem exec_reports {i : Instr} {s t : State} (h : exec i s = .next t) : s.ledger.Reports t.ledger := by
  cases i with
  | init cfg => exact execInit_reports h
  | writeS dst src len =>
    exact State.invoke_reports h fun u => State.whenJob_reports (.of_eq (State.startSync_ledger ..))
  | writeA dst src len => exact State.invoke_reports h fun u => State.whenJob_reports (State.startAsync_reports ..)
  | eraseS dst len =>
    exact State.invoke_reports h fun u => State.whenJob_reports (.of_eq (State.startSync_ledger ..))
  | eraseA dst len => exact State.invoke_reports h fun u => State.whenJob_reports (State.startAsync_reports ..)
  | poll => exact State.invoke_reports h fun u => State.whenInit_reports u.pollResult_reports
  | read src dst len =>
    exact State.invoke_reports h fun u =>
      State.whenJob_reports (.of_eq (State.whenReadable_ledger (State.copyOut_ledger ..)))
  | compare src buf len =>
    exact State.invoke_reports h fun u =>
      State.whenJob_reports (.of_eq (State.whenReadable_ledger (State.compareOut_ledger ..)))
  | quickCheck dst src len w =>
    exact State.invoke_reports h fun u => State.whenInit_reports (State.quickCheckStep_reports ..)
  | quickEnter w => exact State.invoke_reports h fun u => State.whenInit_reports (State.quickEnterStep_reports ..)
  | quickExit =>
    exact State.invoke_reports h fun u => State.whenInit_reports (.of_eq (State.dispatchCommand_ledger ..))
  | waitReady => exact State.invoke_reports h fun u => State.whenInit_reports u.waitReadyStep_reports
  | routineLoad kind => exact execRoutineLoad_reports h
  | routineUnload => exact State.invoke_reports h fun u => State.whenInit_reports .silent
  | dispatch fcode len =>
    exact State.invoke_reports h fun u => State.whenInit_reports (.of_eq (State.dispatchCommand_ledger ..))
  | crcReset => exact State.invoke_reports_of_silent (show execCrcReset s = .next t from h) fun _ => rfl
  | crcFold8 b => exact State.invoke_reports_of_silent (show execCrcFold8 b s = .next t from h) fun _ => rfl
  | crcFold16 x => exact State.invoke_reports_of_silent (show execCrcFold16 x s = .next t from h) fun _ => rfl
  | crcFinalize => exact State.invoke_reports_of_silent (show execCrcFinalize s = .next t from h) fun _ => rfl
  | crcCheckCfg cfg => exact execCrcCheckCfg_reports h
  | setEee => exact State.issueRaw_reports h (State.issueCommand_ledger ..)
  | setQuick w => exact State.issueRaw_reports h (State.issueCommand_ledger ..)
  | query => exact State.issueRaw_reports h (State.issueCommand_ledger ..)
  | complete => exact State.issueRaw_reports h (State.issueCommand_ledger ..)
  | page1 a b => exact State.issueRaw_reports h (State.issuePage_ledger ..)
  | page4 a b0 b1 b2 b3 => exact State.issueRaw_reports h (State.issuePage_ledger ..)

end Sys2Proof.Machine
end

section
/-! SUPPORT. The controller's step and reset: they report nothing and keep the parameters; with them, the two statements
about who changes what. -/

namespace Sys2Proof.Machine

/-- The parameters and both event lists are the same. -/
def State.SameRecord (s t : State) : Prop := t.par = s.par ∧ t.det = s.det ∧ t.dem = s.dem

theorem State.completeCommand_sameRecord (c : Command) (len : Half) (d : FcDraw) (s : State) :
    s.SameRecord (s.completeCommand c len d) := by
  cases c with
  | setEee =>
    simp only [State.completeCommand, State.completeSetEee]
    split <;> exact ⟨rfl, rfl, rfl⟩
  | setQuick => exact ⟨rfl, rfl, rfl⟩
  | query =>
    obtain ⟨v, e⟩ := State.completeQuery_eq d s
    rw [State.completeCommand, e]
    exact ⟨rfl, rfl, rfl⟩
  | complete => exact ⟨rfl, rfl, rfl⟩

theorem State.failCommand_sameRecord (c : Command) (d : FcDraw) (s : State) : s.SameRecord (s.failCommand c d) := by
  cases c with
  | setEee => exact ⟨rfl, rfl, rfl⟩
  | setQuick => exact ⟨rfl, rfl, rfl⟩
  | query =>
    obtain ⟨v, e⟩ := State.failQuery_eq d s
    rw [State.failCommand, e]
    exact ⟨rfl, rfl, rfl⟩
  | complete => exact ⟨rfl, rfl, rfl⟩

theorem State.completePage_sameRecord (a : Word) (n : Nat) (s : State) : s.SameRecord (s.completePage a n) := by
  unfold State.completePage
  split <;> exact ⟨rfl, rfl, rfl⟩

theorem State.completeWork_sameRecord (d : FcDraw) (s : State) : s.SameRecord (s.completeWork d) := by
  unfold State.completeWork
  split
  · exact ⟨rfl, rfl, rfl⟩
  · split
    · exact State.completeCommand_sameRecord _ _ d s
    · exact State.failCommand_sameRecord _ d s
  · split
    · exact State.completePage_sameRecord _ _ s
    · exact ⟨rfl, rfl, rfl⟩

theorem State.fcComplete_sameRecord (d : FcDraw) (s : State) : s.SameRecord (s.fcComplete d) := by
  unfold State.fcComplete
  split
  · exact State.completeWork_sameRecord d s
  · exact ⟨rfl, rfl, rfl⟩

/-- Who changes the ledger: the controller and a reset, which report nothing and keep the parameters, or else a step that
at most reports. -/
theorem step_ledger_cases {s t : State} (h : step s = .next t) :
    (((∃ d rest, s.inputs = .fcComplete d :: rest) ∨ (∃ d rest, s.inputs = .reset d :: rest)) ∧ s.SameRecord t) ∨
      s.ledger.Reports t.ledger := by
  cases step_moves h with
  | reset hin => exact .inl ⟨.inr ⟨_, _, hin⟩, rfl, rfl, rfl⟩
  | exhausted _ _ => exact .inr s.sequencerStep_reports
  | @sequencer rest _ _ => exact .inr (State.sequencerStep_reports { s with inputs := rest })
  | @controller d rest _ hin =>
    exact .inl ⟨.inl ⟨d, rest, hin⟩, State.fcComplete_sameRecord d { s with inputs := rest }⟩
  | @instruction _ rest _ _ _ _ _ hexec => exact .inr (exec_reports (s := { s with inputs := rest }) hexec)
  | undecoded _ _ _ => exact .inr .silent
  | @breach how rest _ _ => exact .inr (.of_eq (State.callbackBreach_ledger how { s with inputs := rest }))
  | @load _ _ rest _ _ _ hload => exact .inr (.of_eq (State.cpuLoad_ledger (s := { s with inputs := rest }) hload))
  | @store _ _ rest _ _ _ hstore => exact .inr (.of_eq (State.cpuStore_ledger (s := { s with inputs := rest }) hstore))

/-- Whatever is reported, the parameters and the controller's own state stay. -/
theorem Ledger.Reports.owned {l m : Ledger} (h : l.Reports m) :
    m.par = l.par ∧ m.mode = l.mode ∧ m.nv = l.nv ∧ m.qdirty = l.qdirty ∧ m.pend = l.pend ∧ m.boLatch = l.boLatch ∧
      m.configRest = l.configRest := by
  cases h <;> exact ⟨rfl, rfl, rfl, rfl, rfl, rfl, rfl⟩

/-- At most one development-error event is added, and none to a disabled sink (60_exceptions.md R402). -/
theorem Ledger.Reports.det_append {l m : Ledger} (h : l.Reports m) :
    ∃ new, m.det = l.det ++ new ∧ new.length ≤ 1 ∧ (l.par.det = false → new = []) := by
  cases h with
  | silent => exact ⟨[], by simp⟩
  | det op c =>
    cases hp : l.par.det with
    | false => exact ⟨[], by simp [Ledger.addDet, hp]⟩
    | true => exact ⟨[⟨l.par.detModule, l.par.detInstance, op, c⟩], by simp [Ledger.addDet, hp]⟩
  | brownOut bo => exact ⟨[], by simp [Ledger.addBrownOut]⟩

/-- None or the four brown-out events are added, and none to a disabled sink (43_init_brownout.md R237). -/
theorem Ledger.Reports.dem_append {l m : Ledger} (h : l.Reports m) :
    ∃ new, m.dem = l.dem ++ new ∧ (new.length = 0 ∨ new.length = 4) ∧ (l.par.dem = false → new = []) := by
  cases h with
  | silent => exact ⟨[], by simp⟩
  | det op c => exact ⟨[], by simp [Ledger.addDet]⟩
  | brownOut bo =>
    cases hp : l.par.dem with
    | false => exact ⟨[], by simp [Ledger.addBrownOut, hp]⟩
    | true => exact ⟨brownOutEvents bo, by simp [Ledger.addBrownOut, brownOutEvents, hp]⟩

/-- Settles O14: outside the controller's step and reset the ledger changes by reports alone, which touch only the events. -/
theorem controllerStateIsItsOwn : Obligations.ControllerStateIsItsOwn := by
  intro s t h
  rcases step_ledger_cases h with ⟨hwho, hpar, -, -⟩ | hrep
  · refine ⟨hpar, fun hctl hrst => ?_⟩
    rcases hwho with ⟨d, rest, hin⟩ | ⟨d, rest, hin⟩
    · exact absurd hin (hctl d rest)
    · exact absurd hin (hrst d rest)
  · obtain ⟨hpar, howned⟩ := hrep.owned
    exact ⟨hpar, fun _ _ => howned⟩

/-- Settles O60: the controller and a reset add no event; any other step adds what one report adds. -/
theorem eventsAreOnlyAdded : Obligations.EventsAreOnlyAdded := by
  intro s t h
  rcases step_ledger_cases h with ⟨-, -, hdet, hdem⟩ | hrep
  · exact ⟨⟨[], by simp [hdet]⟩, ⟨[], by simp [hdem]⟩⟩
  · exact ⟨hrep.det_append, hrep.dem_append⟩

end Sys2Proof.Machine
end

section
/-! SUPPORT. How the invariant is kept: it speaks of some fields alone, the updates of the others keep it, and what it
asks of a waiting operation is apart from what it asks of the machine at rest. -/

namespace Sys2Proof.Machine

/-- The state with every field that the invariant does not speak of as at reset. -/
def State.guarded (s : State) : State :=
  { State.reset with
    par := s.par, mem := s.mem, stage := s.stage, nv := s.nv, shadow := s.shadow, qdirty := s.qdirty, mode := s.mode
    inflight := s.inflight, crcSr := s.crcSr, issued := s.issued, result := s.result, routine := s.routine
    dst := s.dst, rem := s.rem, pos := s.pos, initDone := s.initDone }

theorem State.guarded_inv_iff (s : State) : s.guarded.Inv ↔ s.Inv := ⟨fun h => { h with }, fun h => { h with }⟩

/-- An update of other fields keeps the invariant. -/
theorem State.Inv.congr {s t : State} (h : s.Inv) (e : t.guarded = s.guarded) : t.Inv :=
  t.guarded_inv_iff.mp (e ▸ s.guarded_inv_iff.mpr h)

/-- The invariant, but for what it asks of a waiting operation. -/
abbrev State.AtRest (s : State) : Prop := State.Inv { s with pos := .idle }

/-- What the invariant asks of an operation that waits at `w` (41_write_paths.md R160, 43_init_brownout.md R230). -/
def State.MayWait (s : State) (w : WaitPoint) : Prop :=
  (∀ len, w = .page len →
    s.dst.toNat + s.rem.toNat ≤ s.par.eeeSize ∧ 0 < s.rem.toNat ∧ s.rem.toNat ≤ len.toNat) ∧
  (w ∈ initWaits → s.initDone = false)

theorem State.Inv.atRest {s : State} (h : s.Inv) : s.AtRest :=
  { h with paging := (nofun), starting := (nofun) }

theorem State.Inv.mayWait {s : State} (h : s.Inv) {op : Byte} {w : WaitPoint} (hpos : s.pos = .waiting op w) :
    s.MayWait w :=
  ⟨fun len e => h.paging op len (e ▸ hpos), fun hw => h.starting op w hw hpos⟩

theorem State.AtRest.inv {s : State} (h : s.AtRest) (hw : ∀ op w, s.pos = .waiting op w → s.MayWait w) : s.Inv :=
  { h with
    paging := fun op len e => (hw op _ e).1 len rfl
    starting := fun op w hmem e => (hw op w e).2 hmem }

/-! The bookkeeping of the sequencer. -/

theorem State.AtRest.finish {s : State} (h : s.AtRest) (st : Status) (n : Option Nat) : (s.finish st n).Inv :=
  h.congr rfl

theorem State.AtRest.startWait {s : State} (h : s.AtRest) (op : Byte) {w : WaitPoint} (hw : s.MayWait w) :
    (s.startWait op w).Inv :=
  State.AtRest.inv (h.congr rfl) fun op' w' e => by
    cases e
    exact hw

theorem State.Inv.finish {s : State} (h : s.Inv) (st : Status) (n : Option Nat) : (s.finish st n).Inv :=
  h.atRest.finish st n

theorem State.Inv.raise {s : State} (h : s.Inv) (r : Fault) : (s.raise r).Inv := h.congr rfl

theorem State.Inv.signalDet {s : State} (h : s.Inv) (op : Byte) (c : DetCode) : (s.signalDet op c).Inv := h.congr rfl

theorem State.Inv.reject {s : State} (h : s.Inv) (op : Byte) (c : DetCode) (n : Option Nat) : (s.reject op c n).Inv :=
  (h.signalDet op c).finish _ n

theorem State.Inv.ifSound {s : State} (h : s.Inv) {f : State → State} (hf : (f s).Inv) : (s.ifSound f).Inv := by
  rcases State.ifSound_cases s f with ⟨-, e⟩ | ⟨-, e⟩ <;> rw [e]
  · exact hf
  · exact h

theorem State.Inv.whenInit {s : State} (h : s.Inv) {op : Byte} {n : Option Nat} {body : State → State}
    (hb : (body s).Inv) : (s.whenInit op n body).Inv := by
  unfold State.whenInit
  split
  · exact hb
  · exact h.reject op .uninit n

theorem State.Inv.whenJob {s : State} (h : s.Inv) {op : Byte} {n : Option Nat} {c : JobCheck} {body : State → State}
    (hb : c = .accept → (body s).Inv) : (s.whenJob op n c body).Inv := by
  cases c with
  | accept => exact hb rfl
  | reject d => exact h.reject op d n
  | stop r => exact h.raise r

theorem State.Inv.invoke {s t : State} (h : s.Inv) {op : Byte} {body : State → State} (e : s.invoke op body = .next t)
    (hb : ∀ u : State, u.Inv → u.pos = .idle → (body u).Inv) : t.Inv := by
  rcases State.invoke_cases e with ⟨-, ⟨hpos, -, rfl⟩ | ⟨-, -, rfl⟩ | ⟨-, rfl⟩⟩
  · exact hb _ (h.congr rfl) hpos
  · exact h.raise _
  · exact h.raise _

theorem State.Inv.issueRaw {s t : State} (h : s.Inv) {body : State → State} (e : s.issueRaw body = .next t)
    (hb : (body s).Inv) : t.Inv := by
  rcases State.issueRaw_cases e with ⟨-, ⟨-, rfl⟩ | ⟨-, rfl⟩⟩
  · exact hb
  · exact h.raise _

end Sys2Proof.Machine
end

section
/-! SUPPORT. The controller keeps the invariant: launches, page issues, FC_COMPLETE and reset. -/

namespace Sys2Proof.Machine

/-! Launches (40_dispatch_polling.md R128, R141). -/

theorem State.quickLegal_windowOk {w : Half} {s : State} (h : s.quickLegal w = true) : windowOk s.par w = true := by
  simp only [State.quickLegal, Bool.and_eq_true] at h
  exact h.2

theorem State.Inv.launch {s : State} (h : s.Inv) : s.launch.Inv := by
  rcases State.launch_cases s with ⟨r, -, e⟩ | ⟨c, -, hc, -, -, e⟩ <;> rw [e]
  · exact h.raise r
  · exact { h with flight := fun hq => State.quickLegal_windowOk (hc hq) }

theorem State.Inv.writeStatus {s : State} (h : s.Inv) (w : StatusWrite) : (s.writeStatus w).Inv := by
  have hclear : (s.clearFlags w).Inv := h.congr rfl
  simp only [State.writeStatus]
  split
  · split
    · exact hclear.raise _
    · exact hclear.launch
  · exact hclear

theorem State.Inv.writeParam {s : State} (h : s.Inv) (k : Fin 12) (v : Byte) : (s.writeParam k v).Inv := by
  unfold State.writeParam
  split
  · exact h.raise _
  · exact h.congr rfl

theorem State.Inv.issueCommand {s : State} (h : s.Inv) (fcode : Byte) (len : Half) :
    (s.issueCommand fcode len).Inv := by
  rcases State.issueCommand_cases fcode len s with ⟨-, e⟩ | ⟨-, v, ⟨r, -, e⟩ | ⟨c, l, hc, e⟩⟩ <;> rw [e]
  · exact h.raise _
  · exact h.congr rfl
  · exact { h with flight := fun hq => State.quickLegal_windowOk (hc hq) }

/-! Page issues (40_dispatch_polling.md R130, R131, R134). -/

theorem State.Inv.issuePage {s : State} (h : s.Inv) (a : Word) (bytes : List Byte) : (s.issuePage a bytes).Inv := by
  rcases State.issuePage_cases a bytes s with ⟨r, -, e⟩ | ⟨hnone, e⟩ <;> rw [e]
  · exact h.raise r
  · obtain ⟨-, -, hrange, -, -, -⟩ := State.pagePrecheck_none hnone
    exact { h with
      stage := ⟨Mem.wf_writeBytes h.stage.1 _ _, Mem.below_writeBytes h.stage.2 hrange⟩
      flight := hrange }

/-! FC_COMPLETE (40_dispatch_polling.md R140 to R146). -/

theorem State.Inv.flight_cmd {s : State} (h : s.Inv) {c : Command} {len : Half} (hc : s.inflight = .cmd c len) :
    c = .setQuick → windowOk s.par len = true :=
  show (Inflight.cmd c len).legal s.par from hc ▸ h.flight

theorem State.Inv.flight_page {s : State} (h : s.Inv) {a : Word} {n : Nat} (hp : s.inflight = .page a n) :
    a.toNat + n ≤ s.par.eeeSize :=
  show (Inflight.page a n).legal s.par from hp ▸ h.flight

theorem State.Inv.completeSetEee {s : State} (h : s.Inv) : s.completeSetEee.Inv := by
  unfold State.completeSetEee
  split
  · next hm =>
    have hclean := h.committed (by simp [State.quickMode, hm])
    exact { h with stage := h.nv, mode := trivial, committed := fun _ => hclean }
  · next hm =>
    have hclean := h.committed (by simp [State.quickMode, hm])
    exact { h with mode := trivial, committed := fun _ => hclean }
  · exact { h with
      nv := ⟨Mem.wf_copyAt _ _ h.nv.1, Mem.below_copyAt _ h.nv.2 h.dirty.2⟩
      dirty := ⟨List.Pairwise.nil, nofun⟩
      committed := fun _ => rfl
      mode := trivial }

theorem State.Inv.completeCommand {s : State} (h : s.Inv) {c : Command} {len : Half} (hc : s.inflight = .cmd c len)
    (d : FcDraw) : (s.completeCommand c len d).Inv := by
  cases c with
  | setEee => exact h.completeSetEee
  | setQuick => exact { h with mode := h.flight_cmd hc rfl, committed := (nofun) }
  | query =>
    obtain ⟨v, e⟩ := State.completeQuery_eq d s
    rw [State.completeCommand, e]
    exact h.congr rfl
  | complete => exact h.congr rfl

theorem State.Inv.failCommand {s : State} (h : s.Inv) (c : Command) (d : FcDraw) : (s.failCommand c d).Inv := by
  cases c with
  | query =>
    obtain ⟨v, e⟩ := State.failQuery_eq d s
    rw [State.failCommand, e]
    exact h.congr rfl
  | setEee => exact h
  | setQuick => exact h
  | complete => exact h

theorem State.Inv.completePage {s : State} (h : s.Inv) {a : Word} {n : Nat} (hrange : a.toNat + n ≤ s.par.eeeSize) :
    (s.completePage a n).Inv := by
  have haddrs : ∀ x ∈ addrsFrom a.toNat n, x < s.par.eeeSize := fun x hx => by
    have := mem_addrsFrom.mp hx
    omega
  unfold State.completePage
  split
  · next hq =>
    exact { h with
      dirty := ⟨addrSet_foldl_insertAddr h.dirty.1, fun x hx =>
        (mem_foldl_insertAddr.mp hx).elim (haddrs x) (h.dirty.2 x)⟩
      committed := fun hn => absurd (hq.symm.trans hn) (by simp) }
  · exact { h with nv := ⟨Mem.wf_copyAt _ _ h.nv.1, Mem.below_copyAt _ h.nv.2 haddrs⟩ }

@[simp] theorem length_drawn (n : Nat) (d : List Byte) : (drawn n d).length = n := by simp [drawn]

theorem State.Inv.failPage {s : State} (h : s.Inv) {a : Word} {n : Nat} (hrange : a.toNat + n ≤ s.par.eeeSize)
    (d : FcDraw) : (s.failPage a n d).Inv :=
  { h with
    stage := ⟨Mem.wf_writeBytes h.stage.1 _ _, Mem.below_writeBytes h.stage.2 (by rwa [length_drawn])⟩
    nv := ⟨Mem.wf_writeBytes h.nv.1 _ _, Mem.below_writeBytes h.nv.2 (by rwa [length_drawn])⟩ }

theorem State.Inv.completeWork {s : State} (h : s.Inv) (d : FcDraw) : (s.completeWork d).Inv := by
  unfold State.completeWork
  split
  · exact h
  · next c len hc =>
    split
    · exact h.completeCommand hc d
    · exact h.failCommand c d
  · next a n hp =>
    have hrange := h.flight_page hp
    split
    · exact h.completePage hrange
    · exact h.failPage hrange d

theorem State.Inv.fcComplete {s : State} (h : s.Inv) (d : FcDraw) : (s.fcComplete d).Inv := by
  unfold State.fcComplete
  split
  · exact { h.completeWork d with flight := trivial }
  · exact h

/-! Reset (10_state.md R39, 70_reset_and_hazards.md R451). -/

/-- Only staging addresses can be interrupted. -/
theorem State.Inv.interrupted_lt {s : State} (h : s.Inv) : ∀ a ∈ s.interruptedAddrs, a < s.par.eeeSize := by
  unfold State.interruptedAddrs
  split
  · exact h.dirty.2
  · exact h.dirty.2
  · next a n hp =>
    have hrange := h.flight_page hp
    intro x hx
    rcases List.mem_append.mp hx with hx | hx
    · have := mem_addrsFrom.mp hx
      omega
    · exact h.dirty.2 x hx

theorem State.Inv.nvAfterReset {s : State} (h : s.Inv) (d : ResetDraw) :
    Mem.wf (s.nvAfterReset d) ∧ Mem.below (s.nvAfterReset d) s.par.eeeSize :=
  ⟨Mem.wf_copyAt _ _ h.nv.1, Mem.below_copyAt _ h.nv.2 h.interrupted_lt⟩

/-- A drawn memory of `n` bytes is canonical and has no other. -/
theorem Mem.drawn_legal (cs : List Host.Cell) (n : Nat) :
    Mem.wf (Mem.ofCells (cs.filter fun c => decide (c.1 < n)) []) ∧
      Mem.below (Mem.ofCells (cs.filter fun c => decide (c.1 < n)) []) n :=
  ⟨Mem.wf_ofCells _ Mem.wf_nil,
    Mem.below_ofCells (Mem.below_nil n) fun c hc => by simpa using (List.mem_filter.mp hc).2⟩

theorem State.Inv.afterReset {s : State} (h : s.Inv) (d : ResetDraw) : (s.afterReset d).Inv where
  mem := h.mem
  stage := by
    show Mem.wf (if d.ready then s.nvAfterReset d else _) ∧ Mem.below (if d.ready then s.nvAfterReset d else _) _
    split
    · exact h.nvAfterReset d
    · exact Mem.drawn_legal d.stage s.par.eeeSize
  nv := h.nvAfterReset d
  shadow := Mem.drawn_legal d.shadow s.par.shadowSize
  dirty := ⟨List.Pairwise.nil, nofun⟩
  committed := fun _ => rfl
  mode := by
    show FlexMode.legal s.par (if d.ready then .normal else .offline)
    split <;> trivial
  flight := trivial
  crc := by
    show (d.crc.setWidth 32).toNat < 2 ^ 16
    rw [BitVec.toNat_setWidth_of_le (by decide)]
    exact d.crc.isLt
  issued := (nofun)
  routine := fun hr => absurd rfl hr
  pending := (nofun)
  paging := (nofun)
  starting := (nofun)

end Sys2Proof.Machine
end

section
/-! SUPPORT. The sequencer keeps the invariant: commands, INIT, transfers, polls. -/

namespace Sys2Proof.Machine

/-- The parameters and the sequencer's transfer state are the same (10_state.md R40, R41). -/
def State.SameTransfer (s t : State) : Prop :=
  t.par = s.par ∧ t.dst = s.dst ∧ t.rem = s.rem ∧ t.result = s.result ∧ t.initDone = s.initDone

theorem State.MayWait.congr {s t : State} {w : WaitPoint} (h : s.MayWait w) (e : s.SameTransfer t) : t.MayWait w := by
  obtain ⟨hpar, hdst, hrem, -, hinit⟩ := e
  unfold State.MayWait
  rw [hpar, hdst, hrem, hinit]
  exact h

theorem State.issueCommand_sameTransfer (fcode : Byte) (len : Half) (s : State) :
    s.SameTransfer (s.issueCommand fcode len) := by
  rcases State.issueCommand_cases fcode len s with ⟨-, e⟩ | ⟨-, v, ⟨r, -, e⟩ | ⟨c, l, -, e⟩⟩ <;> rw [e] <;>
    exact ⟨rfl, rfl, rfl, rfl, rfl⟩

theorem State.issuePage_sameTransfer (a : Word) (bytes : List Byte) (s : State) :
    s.SameTransfer (s.issuePage a bytes) := by
  rcases State.issuePage_cases a bytes s with ⟨r, -, e⟩ | ⟨-, e⟩ <;> rw [e] <;> exact ⟨rfl, rfl, rfl, rfl, rfl⟩

/-! Commands (40_dispatch_polling.md R122, R139). -/

theorem State.Inv.dispatchCommand {s : State} (h : s.Inv) (op : Byte) {w : WaitPoint} (hw : s.MayWait w) (fcode : Byte)
    (len : Half) : (s.dispatchCommand op w fcode len).Inv := by
  have hclear : s.w1c.Inv := h.congr rfl
  have hissue := hclear.issueCommand fcode len
  unfold State.dispatchCommand
  split
  · exact h.raise _
  · exact hissue.ifSound (hissue.atRest.startWait op (hw.congr (s.w1c.issueCommand_sameTransfer fcode len)))

/-- A wait of neither INIT nor a transfer asks nothing. -/
theorem State.mayWait_of_other (s : State) {w : WaitPoint} (hpage : ∀ len, w ≠ .page len) (hinit : w ∉ initWaits) :
    s.MayWait w :=
  ⟨fun len e => absurd e (hpage len), fun hw => absurd hw hinit⟩

/-- One of INIT's waits asks for UNINIT (43_init_brownout.md R230). -/
theorem State.mayWait_of_uninit {s : State} (hi : s.initDone = false) {w : WaitPoint} (hw : w ∈ initWaits) :
    s.MayWait w :=
  ⟨fun len e => absurd (e ▸ hw) (by simp), fun _ => hi⟩

theorem State.Inv.commandEnd {s : State} (h : s.Inv) {op : Byte} {expired : Bool} {k : Status → State → State}
    (hk : ∀ st (u : State), u.Inv → u.initDone = s.initDone → (k st u).Inv) : (s.commandEnd op expired k).Inv := by
  unfold State.commandEnd
  split
  · exact hk _ _ (h.signalDet op _) rfl
  · exact hk _ _ h rfl

/-! INIT, whose every wait finds `seq.init` UNINIT (43_init_brownout.md R230). -/

theorem State.Inv.initQueryStep {s : State} (h : s.Inv) (hi : s.initDone = false) : s.initQueryStep.Inv :=
  h.dispatchCommand 0x01#8 (State.mayWait_of_uninit hi (by decide)) _ _

theorem State.Inv.initOnlineStep {s : State} (h : s.Inv) (hi : s.initDone = false) : s.initOnlineStep.Inv := by
  unfold State.initOnlineStep
  split
  · exact h.initQueryStep hi
  · exact h.dispatchCommand 0x01#8 (State.mayWait_of_uninit hi (by decide)) _ _

theorem State.Inv.initDoneStep {s : State} (h : s.Inv) : s.initDoneStep.Inv :=
  have hrest : State.AtRest { s with initDone := true, quick := false, result := .idle, issued := false } :=
    { h with issued := (nofun), pending := (nofun), paging := (nofun), starting := (nofun) }
  hrest.finish _ _

theorem State.Inv.signalDem {s : State} (h : s.Inv) (id : DemId) (failed : Bool) : (s.signalDem id failed).Inv :=
  h.congr rfl

theorem State.Inv.reportBo {s : State} (h : s.Inv) (bo : BoSeen) : (s.reportBo bo).Inv :=
  (((h.signalDem _ _).signalDem _ _).signalDem _ _).signalDem _ _

@[simp] theorem State.reportBo_initDone (bo : BoSeen) (s : State) : (s.reportBo bo).initDone = s.initDone := by
  simp [State.reportBo]

theorem State.Inv.initReportStep {s : State} (h : s.Inv) (hi : s.initDone = false) : s.initReportStep.Inv := by
  have hseen (bo : BoSeen) : State.Inv { s with boSeen := bo } := h.congr rfl
  have hreport (bo : BoSeen) : (State.reportBo bo { s with boSeen := bo }).Inv := (hseen bo).reportBo bo
  simp only [State.initReportStep]
  split
  · exact (hreport _).dispatchCommand 0x01#8 (State.mayWait_of_uninit (by simpa using hi) (by decide)) _ _
  · exact (hreport _).initDoneStep

theorem State.Inv.afterInitOnline {s : State} (h : s.Inv) (hi : s.initDone = false) (st : Status) :
    (s.afterInitOnline st).Inv := by
  unfold State.afterInitOnline
  split
  · exact h.initQueryStep hi
  · exact h.finish _ _

theorem State.Inv.afterInitQuery {s : State} (h : s.Inv) (hi : s.initDone = false) (st : Status) :
    (s.afterInitQuery st).Inv := by
  unfold State.afterInitQuery
  split
  · exact h.initReportStep hi
  · exact h.finish _ _

theorem State.Inv.afterInitMaint {s : State} (h : s.Inv) (hi : s.initDone = false) (st : Status) :
    (s.afterInitMaint st).Inv := by
  unfold State.afterInitMaint
  split
  · exact h.dispatchCommand 0x01#8 (State.mayWait_of_uninit hi (by decide)) _ _
  · exact h.finish _ _

theorem State.Inv.afterInitRecheck {s : State} (h : s.Inv) (st : Status) : (s.afterInitRecheck st).Inv := by
  unfold State.afterInitRecheck
  split
  · exact h.initDoneStep
  · exact h.finish _ _

theorem State.Inv.initCheckStep {s : State} (h : s.Inv) (cfg : Word) :
    (s.initCheckStep cfg).Inv := by
  have huninit : State.Inv { s with initDone := false } := { h with starting := fun _ _ _ _ => rfl }
  unfold State.initCheckStep
  split
  · exact huninit.initOnlineStep rfl
  · exact (huninit.signalDet _ _).finish _ _

/-! The CRC register (10_state.md R46, 45_crc16.md R302 to R305). -/

theorem toNat_and_low16_lt (x : Word) : (x &&& 0x0000FFFF#32).toNat < 2 ^ 16 := by
  rw [BitVec.toNat_and]
  exact Nat.and_lt_two_pow _ (by decide)

theorem State.Inv.setCrc {s : State} (h : s.Inv) {v : Word} (hv : v.toNat < 2 ^ 16) : State.Inv { s with crcSr := v } :=
  { h with crc := hv }

theorem State.Inv.checkCfg {s : State} (h : s.Inv) (cfg : Word) : (s.checkCfg cfg).Inv :=
  h.setCrc (toNat_and_low16_lt _)

/-! Transfers (41_write_paths.md). -/

theorem pageSize_le {d r : Word} (h : r ≠ 0#32) : pageSize d r ≤ r.toNat := by
  rcases pageSize_cases d r with ⟨e, -, hr⟩ | ⟨e, -⟩ <;> rw [e]
  · exact hr
  · bv_omega

/-- Moving the cursor past a page that is left does not move the end of the transfer up. -/
theorem State.advance_range {s : State} {n : Nat} (hn : n ≤ s.rem.toNat) :
    (s.advance n).dst.toNat + (s.advance n).rem.toNat ≤ s.dst.toNat + s.rem.toNat ∧
      (s.advance n).rem.toNat ≤ s.rem.toNat := by
  have hlt := s.rem.isLt
  simp only [State.advance_dst, State.advance_rem, BitVec.toNat_add, BitVec.toNat_sub, BitVec.toNat_ofNat]
  omega

/-- The loop of a synchronous transfer, whether it begins or goes on: what is left lies in the staging buffer. -/
theorem State.AtRest.writeLoop {s : State} (h : s.AtRest) {op : Byte} {len : Word}
    (hpos : s.pos = .idle ∨ s.pos = .waiting op (.page len))
    (hrange : s.dst.toNat + s.rem.toNat ≤ s.par.eeeSize) (hlen : s.rem.toNat ≤ len.toNat) :
    (s.writeLoop op len).Inv := by
  unfold State.writeLoop
  split
  · exact h.finish _ _
  · next hrem =>
    have hw : s.MayWait (.page len) :=
      ⟨fun l e => by cases e; exact ⟨hrange, by bv_omega, hlen⟩, fun hmem => absurd hmem (by simp)⟩
    have hs : s.Inv := h.inv fun op' w e => by
      rcases hpos with hidle | hwait
      · rw [hidle] at e; cases e
      · rw [hwait] at e; cases e; exact hw
    have hpage := hs.issuePage s.dst (s.pageBytes (pageSize s.dst s.rem))
    exact hpage.ifSound (hpage.atRest.startWait op (hw.congr (s.issuePage_sameTransfer _ _)))

theorem State.Inv.advance {s : State} (h : s.Inv) {n : Nat} (hn : n ≤ s.rem.toNat) : (s.advance n).AtRest :=
  { h with
    pending := fun hr => (State.advance_range hn).1.trans (h.pending hr)
    paging := (nofun)
    starting := (nofun) }

theorem State.Inv.afterPage {s : State} (h : s.Inv) {op : Byte} {len : Word} (hpos : s.pos = .waiting op (.page len))
    (expired : Bool) : (s.afterPage op len expired).Inv := by
  obtain ⟨hrange, hleft, hlen⟩ := h.paging op len hpos
  unfold State.afterPage
  split
  · exact (h.signalDet _ _).finish _ _
  · split
    · exact h.finish _ _
    · have hn : pageSize s.dst s.rem ≤ s.rem.toNat := pageSize_le (by bv_omega)
      obtain ⟨hend, hrem⟩ := State.advance_range hn
      exact (h.advance hn).writeLoop (.inr hpos) (hend.trans hrange) (hrem.trans hlen)

theorem State.Inv.loadTransfer {s : State} (h : s.Inv) {dst len : Word}
    (hrange : dst.toNat + len.toNat ≤ s.par.eeeSize) (src : Option Word) : (s.loadTransfer dst len src).AtRest :=
  { h with pending := fun _ => hrange, paging := (nofun), starting := (nofun) }

theorem State.Inv.startSync {s : State} (h : s.Inv) (hidle : s.pos = .idle) (op : Byte) {dst len : Word}
    (hrange : dst.toNat + len.toNat ≤ s.par.eeeSize) (src : Option Word) : (s.startSync op dst len src).Inv := by
  unfold State.startSync
  split
  · exact (h.loadTransfer hrange src).writeLoop (.inl hidle) hrange le_rfl
  · exact h.finish _ _

/-- A transfer that ends leaves no unchecked page. -/
theorem State.Inv.endTransfer {s : State} (h : s.Inv) {r : SeqResult} (hr : r ≠ .pending) :
    State.Inv { s with issued := false, result := r } :=
  { h with issued := (nofun), pending := fun e => absurd e hr }

theorem State.Inv.asyncBusy {s : State} (h : s.Inv) (op : Byte) : (s.asyncBusy op).Inv := by
  have hcount : s.countDown.Inv := h.congr rfl
  unfold State.asyncBusy
  split
  · exact h.finish _ _
  · split
    · exact ((hcount.endTransfer (r := .failed) (by decide)).signalDet _ _).finish _ _
    · exact hcount.finish _ _

theorem State.Inv.asyncIssue {s : State} (h : s.Inv) (hp : s.result = .pending) {n : Nat} (hn : n ≤ s.rem.toNat) :
    (s.asyncIssue n).Inv := by
  have hpage := h.issuePage s.dst (s.pageBytes n)
  obtain ⟨-, -, hrem, hresult, -⟩ := s.issuePage_sameTransfer s.dst (s.pageBytes n)
  have hnext := hpage.advance (n := n) (by rw [hrem]; exact hn)
  refine hpage.ifSound (State.AtRest.finish (State.Inv.congr ?_ rfl) _ _)
  exact { hnext with issued := fun _ => hresult.trans hp }

theorem State.Inv.asyncStep {s : State} (h : s.Inv) (hp : s.result = .pending) (op : Byte) : (s.asyncStep op).Inv := by
  unfold State.asyncStep
  split
  · exact h.asyncBusy op
  · split
    · exact (h.endTransfer (by decide)).finish _ _
    · split
      · exact (h.endTransfer (by decide)).finish _ _
      · next hrem =>
        have hchecked : State.Inv { s with issued := false } := { h with issued := (nofun) }
        exact hchecked.asyncIssue hp (pageSize_le hrem)

theorem State.Inv.startAsync {s : State} (h : s.Inv) (hidle : s.pos = .idle) (hnew : s.result ≠ .pending) (op : Byte)
    {dst len : Word} (hrange : dst.toNat + len.toNat ≤ s.par.eeeSize) (src : Option Word) :
    (s.startAsync op dst len src).Inv := by
  unfold State.startAsync
  split
  · refine State.Inv.asyncStep ?_ rfl op
    exact { h with
      issued := (nofun)
      pending := fun _ => hrange
      paging := fun op len e => by cases hidle.symm.trans e
      starting := fun op w _ e => by cases hidle.symm.trans e }
  · refine State.Inv.finish ?_ _ _
    exact { h with issued := fun e => absurd (h.issued e) hnew, pending := (nofun) }

theorem State.Inv.pollResult {s : State} (h : s.Inv) : s.pollResult.Inv := by
  unfold State.pollResult
  split
  · next hp => exact h.asyncStep hp _
  all_goals exact h.finish _ _

/-! READ and COMPARE (42_read_compare.md). -/

theorem State.Inv.whenReadable {s : State} (h : s.Inv) {body : State → State} (hb : (body s).Inv) :
    (s.whenReadable body).Inv := by
  unfold State.whenReadable
  split
  · exact h.finish _ _
  · split
    · exact h.raise _
    · split
      · exact h.raise _
      · exact hb

theorem State.Inv.writeMemory {s : State} (h : s.Inv) {a : Nat} {bytes : List Byte} (ha : a + bytes.length ≤ 2 ^ 32) :
    State.Inv { s with mem := Mem.writeBytes s.mem a bytes } :=
  { h with mem := ⟨Mem.wf_writeBytes h.mem.1 _ _, Mem.below_writeBytes h.mem.2 ha⟩ }

theorem State.Inv.copyOut {s : State} (h : s.Inv) (src : Word) {dst len : Word}
    (hdst : dst.toNat + len.toNat ≤ 2 ^ 32) : (s.copyOut src dst len).Inv :=
  (h.writeMemory (by rwa [Mem.length_readBytes])).finish _ _

theorem State.Inv.compareOut {s : State} (h : s.Inv) (src buf len : Word) : (s.compareOut src buf len).Inv := by
  unfold State.compareOut
  split <;> exact h.finish _ _

/-! Quick writes, WAIT_READY and the access routine (44_quick_writes_wait.md). -/

theorem State.Inv.quickCheckStep {s : State} (h : s.Inv) (dst src len : Word) (w : Half) :
    (s.quickCheckStep dst src len w).Inv := by
  unfold State.quickCheckStep
  split
  · exact h.reject _ _ _
  · split
    · exact h.reject _ _ _
    · split
      · exact h.reject _ _ _
      · split
        · exact h.reject _ _ _
        · exact h.finish _ _

theorem State.Inv.quickEnterStep {s : State} (h : s.Inv) (w : Half) : (s.quickEnterStep w).Inv := by
  unfold State.quickEnterStep
  split
  · exact h.reject _ _ _
  · split
    · exact h.reject _ _ _
    · exact h.dispatchCommand _ (s.mayWait_of_other (by simp) (by decide)) _ _

theorem State.Inv.afterQuickEnter {s : State} (h : s.Inv) (st : Status) : (s.afterQuickEnter st).Inv := by
  unfold State.afterQuickEnter
  split
  · exact h.atRest.congr rfl
  · split
    · exact h.finish _ _
    · exact h.dispatchCommand _ (s.mayWait_of_other (by simp) (by decide)) _ _

theorem State.Inv.afterQuickFallback {s : State} (h : s.Inv) (st : Status) : (s.afterQuickFallback st).Inv := by
  unfold State.afterQuickFallback
  split <;> exact h.finish _ _

theorem State.Inv.afterQuickExit {s : State} (h : s.Inv) (st : Status) : (s.afterQuickExit st).Inv := by
  unfold State.afterQuickExit
  split <;> exact h.atRest.congr rfl

theorem State.Inv.waitReadyStep {s : State} (h : s.Inv) : s.waitReadyStep.Inv := by
  unfold State.waitReadyStep
  split
  · exact h.reject _ _ _
  · exact h.atRest.startWait _ (s.mayWait_of_other (by simp) (by decide))

theorem State.Inv.cancelTransfer {s : State} (h : s.Inv) : s.cancelTransfer.Inv := by
  unfold State.cancelTransfer
  split
  · exact h.endTransfer (by decide)
  · next hr => exact h.endTransfer hr

theorem State.Inv.afterReady {s : State} (h : s.Inv) (op : Byte) (expired : Bool) : (s.afterReady op expired).Inv := by
  unfold State.afterReady
  split
  · exact (h.cancelTransfer.signalDet _ _).finish _ _
  · exact h.cancelTransfer.finish _ _

theorem State.Inv.fillShadow {s : State} (h : s.Inv) (k : Routine) : (s.fillShadow k).Inv :=
  { h with
    shadow := ⟨Mem.wf_ofFn _ _, Mem.below_ofFn _ _⟩
    routine := fun _ => rfl }

/-! The end of a wait (40_dispatch_polling.md R136). -/

theorem State.Inv.afterWait {s : State} (h : s.Inv) {op : Byte} {w : WaitPoint} (hpos : s.pos = .waiting op w)
    (expired : Bool) : (s.afterWait op w expired).Inv := by
  have huninit : w ∈ initWaits → s.initDone = false := (h.mayWait hpos).2
  cases w with
  | dispatched => exact h.commandEnd fun st u hu _ => hu.finish st none
  | initOnline => exact h.commandEnd fun st u hu e => hu.afterInitOnline (e.trans (huninit (by decide))) st
  | initQuery => exact h.commandEnd fun st u hu e => hu.afterInitQuery (e.trans (huninit (by decide))) st
  | initMaint => exact h.commandEnd fun st u hu e => hu.afterInitMaint (e.trans (huninit (by decide))) st
  | initRecheck => exact h.commandEnd fun st u hu _ => hu.afterInitRecheck st
  | quickEnter => exact h.commandEnd fun st u hu _ => hu.afterQuickEnter st
  | quickFallback => exact h.commandEnd fun st u hu _ => hu.afterQuickFallback st
  | quickExit => exact h.commandEnd fun st u hu _ => hu.afterQuickExit st
  | page len => exact h.afterPage hpos expired
  | ready => exact h.afterReady op expired

theorem State.Inv.pollIteration {s : State} (h : s.Inv) {op : Byte} {w : WaitPoint} (hpos : s.pos = .waiting op w) :
    (s.pollIteration op w).Inv := by
  have hcall : s.callCallback.Inv := h.congr rfl
  have hcount : s.callCallback.countDown.Inv := h.congr rfl
  unfold State.pollIteration
  split
  · split
    · exact hcall
    · split
      · exact hcount.afterWait hpos true
      · exact hcount
  · exact h.afterWait hpos false

theorem State.Inv.sequencerStep {s : State} (h : s.Inv) : s.sequencerStep.Inv := by
  unfold State.sequencerStep
  split
  · exact h
  · next hpos => exact h.pollIteration hpos

end Sys2Proof.Machine
end

section
/-! SUPPORT. Every instruction and every step keeps the invariant. -/

namespace Sys2Proof.Machine

/-! What is no instruction (40_dispatch_polling.md R149 to R151). -/

theorem State.Inv.callbackBreach {s : State} (h : s.Inv) (how : CallbackBreach) : (s.callbackBreach how).Inv := by
  unfold State.callbackBreach
  split
  · exact h
  · split
    · exact h.congr rfl
    · exact h

theorem State.Inv.cpuLoad {s t : State} (h : s.Inv) {a : Word} {n : Nat} (e : s.cpuLoad a n = .next t) : t.Inv := by
  unfold State.cpuLoad at e
  split at e
  · cases e; exact h.raise _
  · split at e
    · split at e
      · cases e; exact h.congr rfl
      · cases e
    · split at e
      · cases e
      · cases e; exact h.congr rfl

theorem State.Inv.storeRegister {s t : State} (h : s.Inv) {off : Nat} {v : Byte} (e : s.storeRegister off v = .next t) :
    t.Inv := by
  unfold State.storeRegister at e
  split at e
  · cases e; exact h.writeStatus _
  · split at e
    · cases e; exact h.writeParam _ _
    · cases e

theorem State.Inv.cpuStore {s t : State} (h : s.Inv) {a : Word} {data : List Byte} (e : s.cpuStore a data = .next t) :
    t.Inv := by
  unfold State.cpuStore at e
  split at e
  · cases e; exact h.raise _
  · split at e
    · split at e
      · exact h.storeRegister e
      · cases e
    · split at e
      · cases e
      · next hfits =>
        cases e
        exact h.writeMemory (by omega)

/-! Every instruction. -/

/-- A synchronous transfer behind CHECK_JOB. -/
theorem State.Inv.checkedSync {s : State} (h : s.Inv) (hidle : s.pos = .idle) (op : Byte) (dst len : Word)
    (src : Option Word) :
    (s.whenJob op (some 0) (s.checkJob dst len src) (State.startSync op dst len src)).Inv :=
  h.whenJob fun hjob => by
    obtain ⟨-, -, -, hrange, -, -⟩ := State.checkJob_accept hjob
    exact h.startSync hidle op hrange src

/-- An asynchronous transfer behind CHECK_JOB. -/
theorem State.Inv.checkedAsync {s : State} (h : s.Inv) (hidle : s.pos = .idle) (op : Byte) (dst len : Word)
    (src : Option Word) :
    (s.whenJob op (some 0) (s.checkJob dst len src) (State.startAsync op dst len src)).Inv :=
  h.whenJob fun hjob => by
    obtain ⟨-, -, -, hrange, hnew, -⟩ := State.checkJob_accept hjob
    exact h.startAsync hidle hnew op hrange src

theorem execInit_inv {cfg : Word} {s t : State} (h : s.Inv) (e : execInit cfg s = .next t) : t.Inv :=
  h.invoke e fun u hu _ => by
    split
    · exact hu.reject _ _ _
    · split
      · exact hu.raise _
      · split
        · exact hu.raise _
        · exact (hu.checkCfg cfg).initCheckStep cfg

theorem execRead_inv {src dst len : Word} {s t : State} (h : s.Inv) (e : execRead src dst len s = .next t) : t.Inv :=
  h.invoke e fun u hu _ => hu.whenJob fun hjob => by
    obtain ⟨-, -, -, -, -, hbuffer⟩ := State.checkJob_accept hjob
    obtain ⟨-, hfits, -⟩ := hbuffer dst rfl
    exact hu.whenReadable (hu.copyOut src hfits)

theorem execCrcCheckCfg_inv {cfg : Word} {s t : State} (h : s.Inv) (e : execCrcCheckCfg cfg s = .next t) : t.Inv :=
  h.invoke e fun u hu _ => by
    split
    · exact hu.raise _
    · split <;> exact (hu.checkCfg cfg).finish _ _

theorem execCrcReset_inv {s t : State} (h : s.Inv) (e : execCrcReset s = .next t) : t.Inv :=
  h.invoke e fun u hu _ => hu.setCrc <| by
    rw [BitVec.toNat_setWidth_of_le (by decide)]
    exact u.par.crcInit.isLt

theorem execRoutineLoad_inv {kind : Byte} {s t : State} (h : s.Inv) (e : execRoutineLoad kind s = .next t) : t.Inv :=
  h.invoke e fun u hu _ => hu.whenInit <| by
    split
    · exact hu.raise _
    · exact (hu.fillShadow _).finish _ _

theorem exec_inv {i : Instr} {s t : State} (h : s.Inv) (e : exec i s = .next t) : t.Inv := by
  cases i with
  | init cfg => exact execInit_inv h e
  | writeS dst src len =>
    exact h.invoke (show execWriteS dst src len s = .next t from e) fun u hu hidle =>
      hu.checkedSync hidle _ dst len (some src)
  | writeA dst src len =>
    exact h.invoke (show execWriteA dst src len s = .next t from e) fun u hu hidle =>
      hu.checkedAsync hidle _ dst len (some src)
  | eraseS dst len =>
    exact h.invoke (show execEraseS dst len s = .next t from e) fun u hu hidle =>
      hu.checkedSync hidle _ dst len none
  | eraseA dst len =>
    exact h.invoke (show execEraseA dst len s = .next t from e) fun u hu hidle =>
      hu.checkedAsync hidle _ dst len none
  | poll => exact h.invoke e fun u hu _ => hu.whenInit hu.pollResult
  | read src dst len => exact execRead_inv h e
  | compare src buf len =>
    exact h.invoke e fun u hu _ => hu.whenJob fun _ => hu.whenReadable (hu.compareOut src buf len)
  | quickCheck dst src len w => exact h.invoke e fun u hu _ => hu.whenInit (hu.quickCheckStep dst src len w)
  | quickEnter w => exact h.invoke e fun u hu _ => hu.whenInit (hu.quickEnterStep w)
  | quickExit =>
    exact h.invoke e fun u hu _ =>
      hu.whenInit (hu.dispatchCommand _ (u.mayWait_of_other (by simp) (by decide)) _ _)
  | waitReady => exact h.invoke e fun u hu _ => hu.whenInit hu.waitReadyStep
  | routineLoad kind => exact execRoutineLoad_inv h e
  | routineUnload => exact h.invoke e fun u hu _ => hu.whenInit ((hu.fillShadow .none).finish _ _)
  | dispatch fcode len =>
    exact h.invoke e fun u hu _ =>
      hu.whenInit (hu.dispatchCommand _ (u.mayWait_of_other (by simp) (by decide)) _ _)
  | crcReset => exact execCrcReset_inv h e
  | crcFold8 b =>
    exact h.invoke (show execCrcFold8 b s = .next t from e) fun u hu _ => hu.setCrc (toNat_and_low16_lt _)
  | crcFold16 x =>
    exact h.invoke (show execCrcFold16 x s = .next t from e) fun u hu _ => hu.setCrc (toNat_and_low16_lt _)
  | crcFinalize =>
    exact h.invoke (show execCrcFinalize s = .next t from e) fun u hu _ => hu.setCrc (toNat_and_low16_lt _)
  | crcCheckCfg cfg => exact execCrcCheckCfg_inv h e
  | setEee => exact h.issueRaw e (h.issueCommand _ _)
  | setQuick w => exact h.issueRaw e (h.issueCommand _ _)
  | query => exact h.issueRaw e (h.issueCommand _ _)
  | complete => exact h.issueRaw e (h.issueCommand _ _)
  | page1 a b => exact h.issueRaw e (h.issuePage _ _)
  | page4 a b0 b1 b2 b3 => exact h.issueRaw e (h.issuePage _ _)

/-- Settles O13: each kind of step keeps the invariant, once the input it takes is off the list. -/
theorem stepKeepsInvariant : Obligations.StepKeepsInvariant := by
  intro s t h e
  have htaken (rest : List Input) : State.Inv { s with inputs := rest } := h.congr rfl
  cases step_moves e with
  | reset _ => exact (htaken _).afterReset _
  | exhausted _ _ => exact h.sequencerStep
  | sequencer _ _ => exact (htaken _).sequencerStep
  | controller _ _ => exact (htaken _).fcComplete _
  | instruction _ _ _ hexec => exact exec_inv (htaken _) hexec
  | undecoded _ _ _ => exact (htaken _).raise _
  | breach _ _ => exact (htaken _).callbackBreach _
  | load _ _ hload => exact (htaken _).cpuLoad hload
  | store _ _ hstore => exact (htaken _).cpuStore hstore

end Sys2Proof.Machine
end

section
/-! SUPPORT. The RAM shadow, the CRC register and the inputs to come: what every operation but ROUTINE_LOAD,
ROUTINE_UNLOAD, INIT and the CRC operations keeps. -/

namespace Sys2Proof.Machine

/-- The RAM shadow (10_state.md R44), the CRC register (R46) and the inputs. -/
def State.kept (s : State) : Mem × Word × List Input := (s.shadow, s.crcSr, s.inputs)

@[simp] theorem State.raise_kept (r : Fault) (s : State) : (s.raise r).kept = s.kept := rfl
@[simp] theorem State.finish_kept (st : Status) (n : Option Nat) (s : State) : (s.finish st n).kept = s.kept := rfl
@[simp] theorem State.reject_kept (op : Byte) (c : DetCode) (n : Option Nat) (s : State) :
    (s.reject op c n).kept = s.kept := rfl
@[simp] theorem State.signalDet_kept (op : Byte) (c : DetCode) (s : State) : (s.signalDet op c).kept = s.kept := rfl
@[simp] theorem State.signalDem_kept (id : DemId) (failed : Bool) (s : State) :
    (s.signalDem id failed).kept = s.kept := rfl
@[simp] theorem State.clearFlags_kept (w : StatusWrite) (s : State) : (s.clearFlags w).kept = s.kept := rfl
@[simp] theorem State.w1c_kept (s : State) : s.w1c.kept = s.kept := rfl
@[simp] theorem State.countDown_kept (s : State) : s.countDown.kept = s.kept := rfl
@[simp] theorem State.callCallback_kept (s : State) : s.callCallback.kept = s.kept := rfl
@[simp] theorem State.advance_kept (n : Nat) (s : State) : (s.advance n).kept = s.kept := rfl
@[simp] theorem State.loadTransfer_kept (dst len : Word) (src : Option Word) (s : State) :
    (s.loadTransfer dst len src).kept = s.kept := rfl
@[simp] theorem State.cancelTransfer_kept (s : State) : s.cancelTransfer.kept = s.kept := rfl
@[simp] theorem State.copyOut_kept (src dst len : Word) (s : State) : (s.copyOut src dst len).kept = s.kept := rfl
@[simp] theorem State.initDoneStep_kept (s : State) : s.initDoneStep.kept = s.kept := rfl

/-! Branches. -/

theorem State.ifSound_kept (s : State) {f : State → State} (hf : (f s).kept = s.kept) :
    (s.ifSound f).kept = s.kept := by
  rcases State.ifSound_cases s f with ⟨-, e⟩ | ⟨-, e⟩ <;> rw [e]
  exact hf

theorem State.whenInit_kept {op : Byte} {n : Option Nat} {body : State → State} {s : State}
    (hb : (body s).kept = s.kept) : (s.whenInit op n body).kept = s.kept := by
  unfold State.whenInit
  split
  · exact hb
  · rfl

theorem State.whenJob_kept {op : Byte} {n : Option Nat} {c : JobCheck} {body : State → State} {s : State}
    (hb : (body s).kept = s.kept) : (s.whenJob op n c body).kept = s.kept := by
  cases c with
  | accept => exact hb
  | reject d => rfl
  | stop r => rfl

/-- A view of the state that neither a fault nor a return shows in is kept by an operation whose body keeps it. -/
theorem State.invoke_view {α : Type} {view : State → α} (hret : ∀ u : State, view { u with ret := none } = view u)
    (hraise : ∀ (r : Fault) (u : State), view (u.raise r) = view u) {op : Byte} {body : State → State} {s t : State}
    (h : s.invoke op body = .next t) (hb : ∀ u : State, view (body u) = view u) : view t = view s := by
  rcases State.invoke_cases h with ⟨-, ⟨-, -, rfl⟩ | ⟨-, -, rfl⟩ | ⟨-, rfl⟩⟩
  · exact (hb _).trans (hret s)
  · exact hraise _ s
  · exact hraise _ s

theorem State.invoke_kept {op : Byte} {body : State → State} {s t : State} (h : s.invoke op body = .next t)
    (hb : ∀ u : State, (body u).kept = u.kept) : t.kept = s.kept :=
  State.invoke_view (fun _ => rfl) (fun _ _ => rfl) h hb

theorem State.issueRaw_kept {body : State → State} {s t : State} (h : s.issueRaw body = .next t)
    (hb : (body s).kept = s.kept) : t.kept = s.kept := by
  rcases State.issueRaw_cases h with ⟨-, ⟨-, rfl⟩ | ⟨-, rfl⟩⟩
  · exact hb
  · rfl

/-! Commands and pages. -/

@[simp] theorem State.writeParam_kept (k : Fin 12) (v : Byte) (s : State) : (s.writeParam k v).kept = s.kept := by
  unfold State.writeParam
  split <;> rfl

@[simp] theorem State.launch_kept (s : State) : s.launch.kept = s.kept := by
  rcases State.launch_cases s with ⟨r, -, e⟩ | ⟨c, -, -, -, -, e⟩ <;> rw [e] <;> rfl

@[simp] theorem State.writeStatus_kept (w : StatusWrite) (s : State) : (s.writeStatus w).kept = s.kept := by
  simp only [State.writeStatus]
  split
  · split <;> simp
  · rfl

@[simp] theorem State.issueCommand_kept (fcode : Byte) (len : Half) (s : State) :
    (s.issueCommand fcode len).kept = s.kept := by
  rcases State.issueCommand_cases fcode len s with ⟨-, e⟩ | ⟨-, v, ⟨r, -, e⟩ | ⟨c, l, -, e⟩⟩ <;> rw [e] <;> rfl

@[simp] theorem State.dispatchCommand_kept (op : Byte) (w : WaitPoint) (fcode : Byte) (len : Half) (s : State) :
    (s.dispatchCommand op w fcode len).kept = s.kept := by
  unfold State.dispatchCommand
  split
  · rfl
  · rw [State.ifSound_kept _ rfl, State.issueCommand_kept, State.w1c_kept]

@[simp] theorem State.issuePage_kept (a : Word) (bytes : List Byte) (s : State) :
    (s.issuePage a bytes).kept = s.kept := by
  rcases State.issuePage_cases a bytes s with ⟨r, -, e⟩ | ⟨-, e⟩ <;> rw [e] <;> rfl

/-! INIT behind its checksum. -/

@[simp] theorem State.initQueryStep_kept (s : State) : s.initQueryStep.kept = s.kept := State.dispatchCommand_kept ..

@[simp] theorem State.initOnlineStep_kept (s : State) : s.initOnlineStep.kept = s.kept := by
  unfold State.initOnlineStep
  split <;> simp

@[simp] theorem State.reportBo_kept (bo : BoSeen) (s : State) : (s.reportBo bo).kept = s.kept := by
  simp [State.reportBo]

@[simp] theorem State.initReportStep_kept (s : State) : s.initReportStep.kept = s.kept := by
  simp only [State.initReportStep]
  split
  · rw [State.dispatchCommand_kept, State.reportBo_kept]; rfl
  · rw [State.initDoneStep_kept, State.reportBo_kept]; rfl

@[simp] theorem State.initCheckStep_kept (cfg : Word) (s : State) : (s.initCheckStep cfg).kept = s.kept := by
  unfold State.initCheckStep
  split
  · rw [State.initOnlineStep_kept]; rfl
  · rfl

/-! Transfers. -/

@[simp] theorem State.writeLoop_kept (op : Byte) (len : Word) (s : State) : (s.writeLoop op len).kept = s.kept := by
  unfold State.writeLoop
  split
  · rfl
  · rw [State.ifSound_kept _ rfl, State.issuePage_kept]

@[simp] theorem State.startSync_kept (op : Byte) (dst len : Word) (src : Option Word) (s : State) :
    (s.startSync op dst len src).kept = s.kept := by
  unfold State.startSync
  split <;> simp

theorem State.afterPage_kept (op : Byte) (len : Word) (expired : Bool) (s : State) :
    (s.afterPage op len expired).kept = s.kept := by
  unfold State.afterPage
  split
  · rfl
  · split <;> simp

@[simp] theorem State.asyncBusy_kept (op : Byte) (s : State) : (s.asyncBusy op).kept = s.kept := by
  unfold State.asyncBusy
  split
  · rfl
  · split <;> rfl

@[simp] theorem State.asyncIssue_kept (n : Nat) (s : State) : (s.asyncIssue n).kept = s.kept := by
  unfold State.asyncIssue
  rw [State.ifSound_kept _ rfl, State.issuePage_kept]

@[simp] theorem State.asyncStep_kept (op : Byte) (s : State) : (s.asyncStep op).kept = s.kept := by
  unfold State.asyncStep
  split
  · simp
  · split
    · rfl
    · split
      · rfl
      · rw [State.asyncIssue_kept]; rfl

@[simp] theorem State.startAsync_kept (op : Byte) (dst len : Word) (src : Option Word) (s : State) :
    (s.startAsync op dst len src).kept = s.kept := by
  unfold State.startAsync
  split
  · rw [State.asyncStep_kept]; rfl
  · rfl

theorem State.pollResult_kept (s : State) : s.pollResult.kept = s.kept := by
  unfold State.pollResult
  split <;> simp

/-! READ, COMPARE and quick writes. -/

theorem State.whenReadable_kept {body : State → State} {s : State} (hb : (body s).kept = s.kept) :
    (s.whenReadable body).kept = s.kept := by
  unfold State.whenReadable
  split
  · rfl
  · split
    · rfl
    · split
      · rfl
      · exact hb

theorem State.compareOut_kept (src buf len : Word) (s : State) : (s.compareOut src buf len).kept = s.kept := by
  unfold State.compareOut
  split <;> rfl

theorem State.quickCheckStep_kept (dst src len : Word) (w : Half) (s : State) :
    (s.quickCheckStep dst src len w).kept = s.kept := by
  simp only [State.quickCheckStep, apply_ite State.kept, State.reject_kept, State.finish_kept, ite_self]

theorem State.quickEnterStep_kept (w : Half) (s : State) : (s.quickEnterStep w).kept = s.kept := by
  simp only [State.quickEnterStep, apply_ite State.kept, State.reject_kept, State.dispatchCommand_kept, ite_self]

theorem State.waitReadyStep_kept (s : State) : s.waitReadyStep.kept = s.kept := by
  unfold State.waitReadyStep
  split <;> rfl

/-! The end of a wait, and a poll. -/

theorem State.commandEnd_kept {op : Byte} {expired : Bool} {k : Status → State → State} {s : State}
    (hk : ∀ (st : Status) (u : State), (k st u).kept = u.kept) : (s.commandEnd op expired k).kept = s.kept := by
  unfold State.commandEnd
  split
  · exact hk _ _
  · exact hk _ _

theorem State.afterInitOnline_kept (st : Status) (s : State) : (s.afterInitOnline st).kept = s.kept := by
  unfold State.afterInitOnline
  split <;> simp

theorem State.afterInitQuery_kept (st : Status) (s : State) : (s.afterInitQuery st).kept = s.kept := by
  unfold State.afterInitQuery
  split <;> simp

theorem State.afterInitMaint_kept (st : Status) (s : State) : (s.afterInitMaint st).kept = s.kept := by
  unfold State.afterInitMaint
  split <;> simp

theorem State.afterInitRecheck_kept (st : Status) (s : State) : (s.afterInitRecheck st).kept = s.kept := by
  unfold State.afterInitRecheck
  split <;> simp

theorem State.afterQuickEnter_kept (st : Status) (s : State) : (s.afterQuickEnter st).kept = s.kept := by
  unfold State.afterQuickEnter
  split
  · rfl
  · split <;> simp

theorem State.afterQuickFallback_kept (st : Status) (s : State) : (s.afterQuickFallback st).kept = s.kept := by
  unfold State.afterQuickFallback
  split <;> rfl

theorem State.afterQuickExit_kept (st : Status) (s : State) : (s.afterQuickExit st).kept = s.kept := by
  unfold State.afterQuickExit
  split <;> rfl

theorem State.afterReady_kept (op : Byte) (expired : Bool) (s : State) : (s.afterReady op expired).kept = s.kept := by
  unfold State.afterReady
  split <;> simp

@[simp] theorem State.afterWait_kept (op : Byte) (w : WaitPoint) (expired : Bool) (s : State) :
    (s.afterWait op w expired).kept = s.kept := by
  cases w with
  | dispatched => exact State.commandEnd_kept fun _ _ => rfl
  | initOnline => exact State.commandEnd_kept State.afterInitOnline_kept
  | initQuery => exact State.commandEnd_kept State.afterInitQuery_kept
  | initMaint => exact State.commandEnd_kept State.afterInitMaint_kept
  | initRecheck => exact State.commandEnd_kept State.afterInitRecheck_kept
  | quickEnter => exact State.commandEnd_kept State.afterQuickEnter_kept
  | quickFallback => exact State.commandEnd_kept State.afterQuickFallback_kept
  | quickExit => exact State.commandEnd_kept State.afterQuickExit_kept
  | page len => exact State.afterPage_kept op len expired s
  | ready => exact State.afterReady_kept op expired s

theorem State.sequencerStep_kept (s : State) : s.sequencerStep.kept = s.kept := by
  unfold State.sequencerStep
  split
  · rfl
  · unfold State.pollIteration
    split
    · split
      · simp
      · split <;> simp
    · simp

/-! The controller's step, and what is no instruction. -/

theorem State.completeCommand_kept (c : Command) (len : Half) (d : FcDraw) (s : State) :
    (s.completeCommand c len d).kept = s.kept := by
  cases c with
  | setEee =>
    simp only [State.completeCommand, State.completeSetEee]
    split <;> rfl
  | query =>
    obtain ⟨v, e⟩ := State.completeQuery_eq d s
    rw [State.completeCommand, e]
    rfl
  | setQuick => rfl
  | complete => rfl

theorem State.failCommand_kept (c : Command) (d : FcDraw) (s : State) : (s.failCommand c d).kept = s.kept := by
  cases c with
  | query =>
    obtain ⟨v, e⟩ := State.failQuery_eq d s
    rw [State.failCommand, e]
    rfl
  | setEee => rfl
  | setQuick => rfl
  | complete => rfl

theorem State.completeWork_kept (d : FcDraw) (s : State) : (s.completeWork d).kept = s.kept := by
  unfold State.completeWork
  split
  · rfl
  · split
    · exact State.completeCommand_kept ..
    · exact State.failCommand_kept ..
  · split
    · unfold State.completePage
      split <;> rfl
    · rfl

theorem State.fcComplete_kept (d : FcDraw) (s : State) : (s.fcComplete d).kept = s.kept := by
  unfold State.fcComplete
  split
  · exact State.completeWork_kept d s
  · rfl

theorem State.callbackBreach_kept (how : CallbackBreach) (s : State) : (s.callbackBreach how).kept = s.kept := by
  unfold State.callbackBreach
  split
  · rfl
  · split <;> rfl

theorem State.cpuLoad_kept {a : Word} {n : Nat} {s t : State} (h : s.cpuLoad a n = .next t) : t.kept = s.kept := by
  unfold State.cpuLoad at h
  split at h
  · cases h; rfl
  · split at h
    · split at h
      · cases h; rfl
      · cases h
    · split at h
      · cases h
      · cases h; rfl

theorem State.storeRegister_kept {off : Nat} {v : Byte} {s t : State} (h : s.storeRegister off v = .next t) :
    t.kept = s.kept := by
  unfold State.storeRegister at h
  split at h
  · cases h; simp
  · split at h
    · cases h; simp
    · cases h

theorem State.cpuStore_kept {a : Word} {data : List Byte} {s t : State} (h : s.cpuStore a data = .next t) :
    t.kept = s.kept := by
  unfold State.cpuStore at h
  split at h
  · cases h; rfl
  · split at h
    · split at h
      · exact State.storeRegister_kept h
      · cases h
    · split at h
      · cases h
      · cases h; rfl

end Sys2Proof.Machine
end

section
/-! SUPPORT. What an instruction does to the RAM shadow, the CRC register and the inputs; with it, the statements about
answers, the writers of the shadow and of the CRC register, and the machine before INIT. -/

namespace Sys2Proof.Machine

/-- Invoked in a machine without a recorded fault, an operation answers a next state. -/
theorem State.invoke_answers {s : State} (hs : s.fault = none) (op : Byte) (body : State → State) :
    ∃ t, s.invoke op body = .next t := by
  rw [State.invoke, hs]
  exact ⟨_, rfl⟩

theorem State.issueRaw_answers {s : State} (hs : s.fault = none) (body : State → State) :
    ∃ t, s.issueRaw body = .next t := by
  rw [State.issueRaw, hs]
  exact ⟨_, rfl⟩

/-- Every instruction is an operation invoked or a raw command word or page. -/
theorem exec_answers (i : Instr) {s : State} (hs : s.fault = none) : ∃ t, exec i s = .next t := by
  cases i with
  | setEee => exact State.issueRaw_answers hs _
  | setQuick w => exact State.issueRaw_answers hs _
  | query => exact State.issueRaw_answers hs _
  | complete => exact State.issueRaw_answers hs _
  | page1 a b => exact State.issueRaw_answers hs _
  | page4 a b0 b1 b2 b3 => exact State.issueRaw_answers hs _
  | _ =>
    simp only [exec, execInit, execCrcReset, execCrcFold8, execCrcFold16, execCrcFinalize, execCrcCheckCfg]
    exact State.invoke_answers hs _ _

/-- The instructions that write the RAM shadow (44_quick_writes_wait.md R285, R286). -/
def loadsShadow : Instr → Bool
  | .routineLoad _ => true
  | .routineUnload => true
  | _ => false

theorem loadsShadow_iff (i : Instr) : loadsShadow i = true ↔ i = .routineUnload ∨ ∃ k, i = .routineLoad k := by
  cases i <;> simp [loadsShadow]

/-- Every other instruction but INIT and the CRC operations keeps the shadow, the register and the inputs. -/
theorem exec_kept {i : Instr} (hcrc : beforeInit i = false) (hshadow : loadsShadow i = false) {s t : State}
    (h : exec i s = .next t) : t.kept = s.kept := by
  cases i with
  | init | crcReset | crcFold8 | crcFold16 | crcFinalize | crcCheckCfg => cases hcrc
  | routineLoad | routineUnload => cases hshadow
  | writeS | eraseS => exact State.invoke_kept h fun u => State.whenJob_kept (State.startSync_kept ..)
  | writeA | eraseA => exact State.invoke_kept h fun u => State.whenJob_kept (State.startAsync_kept ..)
  | poll => exact State.invoke_kept h fun u => State.whenInit_kept u.pollResult_kept
  | read =>
    exact State.invoke_kept h fun u => State.whenJob_kept (State.whenReadable_kept (State.copyOut_kept ..))
  | compare =>
    exact State.invoke_kept h fun u => State.whenJob_kept (State.whenReadable_kept (State.compareOut_kept ..))
  | quickCheck => exact State.invoke_kept h fun u => State.whenInit_kept (State.quickCheckStep_kept ..)
  | quickEnter => exact State.invoke_kept h fun u => State.whenInit_kept (State.quickEnterStep_kept ..)
  | quickExit => exact State.invoke_kept h fun u => State.whenInit_kept (State.dispatchCommand_kept ..)
  | waitReady => exact State.invoke_kept h fun u => State.whenInit_kept u.waitReadyStep_kept
  | dispatch => exact State.invoke_kept h fun u => State.whenInit_kept (State.dispatchCommand_kept ..)
  | setEee | setQuick | query | complete => exact State.issueRaw_kept h (State.issueCommand_kept ..)
  | page1 | page4 => exact State.issueRaw_kept h (State.issuePage_kept ..)

/-! INIT and the CRC operations write the CRC register and keep the rest, ROUTINE_LOAD and ROUTINE_UNLOAD write the
shadow. -/

/-- The RAM shadow and the inputs. -/
def State.keptByCrc (s : State) : Mem × List Input := (s.shadow, s.inputs)

/-- The CRC register and the inputs. -/
def State.keptByLoad (s : State) : Word × List Input := (s.crcSr, s.inputs)

theorem State.keptByCrc_of_kept {s t : State} (h : t.kept = s.kept) : t.keptByCrc = s.keptByCrc :=
  congrArg (fun k => (k.1, k.2.2)) h

theorem State.initCheckStep_keptByCrc (cfg : Word) (s : State) :
    ((s.checkCfg cfg).initCheckStep cfg).keptByCrc = s.keptByCrc :=
  (State.keptByCrc_of_kept (State.initCheckStep_kept cfg (s.checkCfg cfg))).trans rfl

theorem State.invoke_keptByCrc {op : Byte} {body : State → State} {s t : State} (h : s.invoke op body = .next t)
    (hb : ∀ u : State, (body u).keptByCrc = u.keptByCrc) : t.keptByCrc = s.keptByCrc :=
  State.invoke_view (fun _ => rfl) (fun _ _ => rfl) h hb

theorem exec_keptByCrc {i : Instr} (hcrc : beforeInit i = true) {s t : State} (h : exec i s = .next t) :
    t.keptByCrc = s.keptByCrc := by
  cases i with
  | init cfg =>
    refine State.invoke_keptByCrc (show execInit cfg s = .next t from h) fun u => ?_
    split
    · rfl
    · split
      · rfl
      · split
        · rfl
        · exact u.initCheckStep_keptByCrc cfg
  | crcReset => exact State.invoke_keptByCrc (show execCrcReset s = .next t from h) fun _ => rfl
  | crcFold8 b => exact State.invoke_keptByCrc (show execCrcFold8 b s = .next t from h) fun _ => rfl
  | crcFold16 x => exact State.invoke_keptByCrc (show execCrcFold16 x s = .next t from h) fun _ => rfl
  | crcFinalize => exact State.invoke_keptByCrc (show execCrcFinalize s = .next t from h) fun _ => rfl
  | crcCheckCfg cfg =>
    refine State.invoke_keptByCrc (show execCrcCheckCfg cfg s = .next t from h) fun u => ?_
    split
    · rfl
    · split <;> rfl
  | _ => cases hcrc

theorem State.invoke_keptByLoad {op : Byte} {body : State → State} {s t : State} (h : s.invoke op body = .next t)
    (hb : ∀ u : State, (body u).keptByLoad = u.keptByLoad) : t.keptByLoad = s.keptByLoad :=
  State.invoke_view (fun _ => rfl) (fun _ _ => rfl) h hb

theorem exec_keptByLoad {i : Instr} (hshadow : loadsShadow i = true) {s t : State} (h : exec i s = .next t) :
    t.keptByLoad = s.keptByLoad := by
  cases i with
  | routineLoad kind =>
    refine State.invoke_keptByLoad (show execRoutineLoad kind s = .next t from h) fun u => ?_
    unfold State.whenInit
    split
    · split <;> rfl
    · rfl
  | routineUnload =>
    refine State.invoke_keptByLoad (show execRoutineUnload s = .next t from h) fun u => ?_
    unfold State.whenInit
    split <;> rfl
  | _ => cases hshadow

theorem exec_inputs {i : Instr} {s t : State} (h : exec i s = .next t) : t.inputs = s.inputs := by
  cases hcrc : beforeInit i with
  | true => exact congrArg Prod.snd (exec_keptByCrc hcrc h)
  | false =>
    cases hshadow : loadsShadow i with
    | true => exact congrArg Prod.snd (exec_keptByLoad hshadow h)
    | false => exact congrArg (fun k => k.2.2) (exec_kept hcrc hshadow h)

theorem exec_shadow {i : Instr} (hshadow : loadsShadow i = false) {s t : State} (h : exec i s = .next t) :
    t.shadow = s.shadow := by
  cases hcrc : beforeInit i with
  | true => exact congrArg Prod.fst (exec_keptByCrc hcrc h)
  | false => exact congrArg Prod.fst (exec_kept hcrc hshadow h)

theorem exec_crcSr {i : Instr} (hcrc : beforeInit i = false) {s t : State} (h : exec i s = .next t) :
    t.crcSr = s.crcSr := by
  cases hshadow : loadsShadow i with
  | true => exact congrArg Prod.fst (exec_keptByLoad hshadow h)
  | false => exact congrArg (fun k => k.2.1) (exec_kept hcrc hshadow h)

/-- Settles O8: the parameters are on the ledger, which an instruction can only report to. -/
theorem everyInstructionAnswers : Obligations.EveryInstructionAnswers := by
  intro i s hs
  obtain ⟨t, h⟩ := exec_answers i hs
  obtain ⟨hpar, -⟩ := (exec_reports h).owned
  exact ⟨t, h, hpar, exec_inputs h⟩

/-- A step that goes on is a reset or an instruction, or it leaves the RAM shadow and the CRC register. -/
theorem step_shadow_crc_cases {s t : State} (h : step s = .next t) :
    (∃ d rest, s.inputs = .reset d :: rest) ∨
      (∃ w rest i, s.inputs = .issue w :: rest ∧ decode s.par w = .ok i ∧ exec i { s with inputs := rest } = .next t) ∨
      (t.shadow = s.shadow ∧ t.crcSr = s.crcSr) := by
  have hleft {rest : List Input} (e : t.kept = State.kept { s with inputs := rest }) :
      t.shadow = s.shadow ∧ t.crcSr = s.crcSr :=
    ⟨congrArg Prod.fst e, congrArg (fun k => k.2.1) e⟩
  cases step_moves h with
  | reset hin => exact .inl ⟨_, _, hin⟩
  | instruction _ hin hdec hexec => exact .inr (.inl ⟨_, _, _, hin, hdec, hexec⟩)
  | exhausted _ _ => exact .inr (.inr (hleft (rest := s.inputs) s.sequencerStep_kept))
  | sequencer _ _ => exact .inr (.inr (hleft (State.sequencerStep_kept _)))
  | controller _ _ => exact .inr (.inr (hleft (State.fcComplete_kept _ _)))
  | undecoded _ _ _ => exact .inr (.inr ⟨rfl, rfl⟩)
  | breach _ _ => exact .inr (.inr (hleft (State.callbackBreach_kept _ _)))
  | load _ _ hload => exact .inr (.inr (hleft (State.cpuLoad_kept hload)))
  | store _ _ hstore => exact .inr (.inr (hleft (State.cpuStore_kept hstore)))

/-- Settles O17: of what is no reset only an instruction can write either, and only those the statement names do. -/
theorem shadowAndCrcWriters : Obligations.ShadowAndCrcWriters := by
  intro s t h hreset
  rcases step_shadow_crc_cases h with ⟨d, rest, hin⟩ | ⟨w, rest, i, hin, hdec, hexec⟩ | ⟨hshadow, hcrc⟩
  · exact absurd hin (hreset d rest)
  · refine ⟨fun hne => ⟨w, rest, i, hin, hdec, ?_⟩, fun hne => ⟨w, rest, i, hin, hdec, ?_⟩⟩
    · by_contra hother
      rw [← loadsShadow_iff, Bool.not_eq_true] at hother
      exact hne (exec_shadow (s := { s with inputs := rest }) hother hexec)
    · by_contra hother
      exact hne (exec_crcSr (s := { s with inputs := rest }) (by simpa using hother) hexec)
  · exact ⟨fun hne => absurd hshadow hne, fun hne => absurd hcrc hne⟩

/-! Before INIT (10_state.md R41, 60_exceptions.md R402). -/

/-- A refusal of an invoked operation: the event and the status, and no other state. -/
theorem State.reject_eq_refusedWith {s : State} (hidle : s.pos = .idle) (op : Byte) (c : DetCode) (n : Option Nat) :
    State.reject op c n { s with ret := none } = s.refusedWith op c n := by
  simp [State.reject, State.finish, State.signalDet, State.refusedWith, State.detWith, hidle]

/-- An operation behind the init check, invoked before INIT. -/
theorem State.invoke_whenInit_of_uninit {s : State} {op : Byte} (hs : s.callable) (hp : opPresent s.par op = true)
    (hi : s.initDone = false) (n : Option Nat) (body : State → State) :
    s.invoke op (State.whenInit op n body) = .next (s.refusedWith op .uninit n) := by
  rw [State.invoke_of_callable hs hp, State.whenInit_of_uninit (s := { s with ret := none }) hi,
    State.reject_eq_refusedWith hs.2]

/-- An operation behind CHECK_JOB, whose first check is the same. -/
theorem State.invoke_whenJob_of_uninit {s : State} {op : Byte} (hs : s.callable) (hp : opPresent s.par op = true)
    (hi : s.initDone = false) (n : Option Nat) (a len : Word) (ptr : Option Word) (body : State → State) :
    s.invoke op (fun t => t.whenJob op n (t.checkJob a len ptr) body) = .next (s.refusedWith op .uninit n) := by
  have hjob : State.checkJob a len ptr { s with ret := none } = .reject .uninit := if_pos hi
  rw [State.invoke_of_callable hs hp, hjob]
  exact congrArg _ (State.reject_eq_refusedWith hs.2 op .uninit n)

/-- Settles O19: every operation but INIT and the CRC operations is behind one of the two checks. -/
theorem uninitializedIsRejected : Obligations.UninitializedIsRejected := by
  intro s i op hop hbefore hs hp hi
  cases i with
  | init | crcReset | crcFold8 | crcFold16 | crcFinalize | crcCheckCfg => cases hbefore
  | setEee | setQuick | query | complete | page1 | page4 => cases hop
  | writeS | writeA | eraseS | eraseA | read | compare =>
    cases hop
    exact ⟨_, State.invoke_whenJob_of_uninit hs hp hi _ _ _ _ _⟩
  | poll | quickCheck | quickEnter | quickExit | waitReady | routineLoad | routineUnload | dispatch =>
    cases hop
    exact ⟨_, State.invoke_whenInit_of_uninit hs hp hi _ _⟩

end Sys2Proof.Machine
end

section
/-! SUPPORT. The controller's registers as the CPU sees them from outside the block: which register an address is, the
bits of STATUS and CONFIG, and what a launch does. -/

namespace Sys2Proof.Machine

/-! A step that is an access of the CPU (20_memory.md R70). -/

theorem step_of_load {s : State} {a : Word} {n : Nat} {rest : List Input} (hf : s.fault = none)
    (hin : s.inputs = .load a n :: rest) : step s = State.cpuLoad a n { s with inputs := rest } :=
  step_of_other (by rw [State.nextAction, hf, hin])

theorem step_of_store {s : State} {a : Word} {data : List Byte} {rest : List Input} (hf : s.fault = none)
    (hin : s.inputs = .store a data :: rest) : step s = State.cpuStore a data { s with inputs := rest } :=
  step_of_other (by rw [State.nextAction, hf, hin])

/-! Which register an address is (10_state.md R24). -/

theorem meets_one (a b m : Nat) : meets a 1 b m = true ↔ inRange a b m := by
  simp only [meets, decide_eq_true_eq]
  omega

/-- The address is that of the register at this offset, and not one of the staging window. -/
def State.addresses (s : State) (addr : Word) (off : Nat) : Prop :=
  ¬ inRange addr.toNat s.par.flexramBase.toNat s.par.eeeSize ∧ addr.toNat = s.par.ctrlBase.toNat + off ∧
    off < s.par.ctrlSize

theorem State.addresses.meets {s : State} {addr : Word} {off : Nat} (h : s.addresses addr off) :
    Machine.meets addr.toNat 1 s.par.flexramBase.toNat s.par.eeeSize = false ∧
      Machine.meets addr.toNat 1 s.par.ctrlBase.toNat s.par.ctrlSize = true ∧
      addr.toNat - s.par.ctrlBase.toNat = off := by
  obtain ⟨hstage, haddr, hoff⟩ := h
  refine ⟨?_, ?_, by omega⟩
  · rwa [← Bool.not_eq_true, meets_one]
  · rw [meets_one]
    omega

theorem State.cpuLoad_register {s : State} {addr : Word} {off : Nat} (h : s.addresses addr off) {v : Byte}
    (hv : s.readRegister off = some v) : s.cpuLoad addr 1 = .next { s with loaded := [v] } := by
  obtain ⟨hstage, hctrl, hoff⟩ := h.meets
  simp [State.cpuLoad, hstage, hctrl, hoff, hv]

theorem State.cpuStore_register {s : State} {addr : Word} {off : Nat} (h : s.addresses addr off) (v : Byte) :
    s.cpuStore addr [v] = s.storeRegister off v := by
  obtain ⟨hstage, hctrl, hoff⟩ := h.meets
  simp [State.cpuStore, hstage, hctrl, hoff]

/-- Registers that are apart can be told by their offset. -/
theorem cmdparamAt_offset {p : Params} (h : p.offCmdparam.toList.Nodup) (k : Fin 12) :
    cmdparamAt p p.offCmdparam[k] = some k := by
  cases hfind : cmdparamAt p p.offCmdparam[k] with
  | none => exact absurd (List.find?_eq_none.mp hfind k (List.mem_finRange k)) (by simp)
  | some j =>
    have hsame : p.offCmdparam[j] = p.offCmdparam[k] := by simpa using List.find?_some hfind
    have hlist : p.offCmdparam.toList[j.val]'(by simp) = p.offCmdparam.toList[k.val]'(by simp) := by simpa using hsame
    exact congrArg some (Fin.ext ((List.Nodup.getElem_inj_iff h).mp hlist))

theorem State.registersApart.offsets {s : State} (h : s.registersApart) :
    s.par.offConfig ≠ s.par.offStatus ∧
      ∀ k : Fin 12, s.par.offCmdparam[k] ≠ s.par.offStatus ∧ s.par.offCmdparam[k] ≠ s.par.offConfig ∧
        cmdparamAt s.par s.par.offCmdparam[k] = some k := by
  simp only [State.registersApart, List.nodup_cons, List.mem_cons, not_or] at h
  obtain ⟨⟨hconfig, hstatus⟩, hrest, hnodup⟩ := h
  have hmem (k : Fin 12) : s.par.offCmdparam[k] ∈ s.par.offCmdparam.toList := by simp
  exact ⟨Ne.symm hconfig, fun k =>
    ⟨fun e => hstatus (e ▸ hmem k), fun e => hrest (e ▸ hmem k), cmdparamAt_offset hnodup k⟩⟩

theorem State.readRegister_status (s : State) : s.readRegister s.par.offStatus = some s.statusByte := if_pos rfl

theorem State.readRegister_config {s : State} (h : s.registersApart) :
    s.readRegister s.par.offConfig = some s.configByte := by
  obtain ⟨hconfig, -⟩ := h.offsets
  rw [State.readRegister, if_neg hconfig, if_pos rfl]

theorem State.readRegister_cmdparam {s : State} (h : s.registersApart) (k : Fin 12) :
    s.readRegister s.par.offCmdparam[k] = some s.cmdparam[k] := by
  obtain ⟨-, hk⟩ := h.offsets
  obtain ⟨hstatus, hconfig, hat⟩ := hk k
  rw [State.readRegister, if_neg hstatus, if_neg hconfig, hat]
  rfl

theorem State.storeRegister_status (s : State) (v : Byte) :
    s.storeRegister s.par.offStatus v = .next (s.writeStatus (statusWriteOf s.par v)) := if_pos rfl

theorem State.storeRegister_cmdparam {s : State} (h : s.registersApart) (k : Fin 12) (v : Byte) :
    s.storeRegister s.par.offCmdparam[k] v = .next (s.writeParam k v) := by
  obtain ⟨-, hk⟩ := h.offsets
  obtain ⟨hstatus, -, hat⟩ := hk k
  rw [State.storeRegister, if_neg hstatus, hat]

/-! The bits of STATUS and CONFIG (10_state.md R25, R29). -/

theorem getLsbD_bitAt (k j : Fin 8) (b : Bool) : (bitAt k b).getLsbD j = (decide (j = k) && b) := by
  revert k j b
  decide

/-- Each bit of STATUS is the flag at its place. -/
theorem State.getLsbD_statusByte (s : State) (j : Fin 8) :
    s.statusByte.getLsbD j =
      (decide (j = s.par.bitCc) && !s.busy || decide (j = s.par.bitColl) && s.coll ||
        decide (j = s.par.bitAccerr) && s.accerr || decide (j = s.par.bitPviol) && s.pviol ||
        decide (j = s.par.bitCstat) && s.cstat) := by
  simp only [State.statusByte, BitVec.getLsbD_or, getLsbD_bitAt]

theorem State.getLsbD_configByte (s : State) (j : Fin 8) :
    s.configByte.getLsbD j = if j = s.par.bitReady then s.ready else s.configRest.getLsbD j := by
  simp only [State.configByte, BitVec.getLsbD_or, BitVec.getLsbD_and, BitVec.getLsbD_not, getLsbD_bitAt, j.isLt]
  by_cases hj : j = s.par.bitReady <;> simp [hj]

/-- With their places apart, the flags can be read off STATUS. -/
theorem State.statusByte_flags {s : State} (h : s.par.wf = true) :
    s.statusByte.getLsbD s.par.bitCc = !s.busy ∧ s.statusByte.getLsbD s.par.bitColl = s.coll ∧
      s.statusByte.getLsbD s.par.bitAccerr = s.accerr ∧ s.statusByte.getLsbD s.par.bitPviol = s.pviol ∧
      s.statusByte.getLsbD s.par.bitCstat = s.cstat := by
  have hbits := Params.wf_bits h
  simp only [List.nodup_cons, List.mem_cons, List.not_mem_nil, not_or, or_false] at hbits
  simp only [State.getLsbD_statusByte]
  grind

/-! The write of STATUS (10_state.md R27). -/

theorem State.writeStatus_without_cc {w : StatusWrite} (h : w.cc = false) (s : State) :
    s.writeStatus w = s.clearFlags w := by
  simp [State.writeStatus, h]

theorem State.writeStatus_busy {w : StatusWrite} (h : w.cc = true) {s : State} (hb : s.inflight ≠ .none) :
    s.writeStatus w = (s.clearFlags w).raise .launchWhileBusy := by
  have hbusy : (s.clearFlags w).busy = true := (s.clearFlags w).busy_iff.mpr hb
  simp [State.writeStatus, h, hbusy]

theorem State.writeStatus_idle {w : StatusWrite} (h : w.cc = true) {s : State} (hb : s.inflight = .none) :
    s.writeStatus w = (s.clearFlags w).launch := by
  have hbusy : (s.clearFlags w).busy = false := (s.clearFlags w).not_busy_iff.mpr hb
  simp [State.writeStatus, h, hbusy]

/-! The launch of what the slots hold (40_dispatch_polling.md R128, R141). -/

theorem State.launch_reserved {s : State}
    (h : s.cmdparam[s.par.slotCmd] ≠ s.par.cmdSetfr ∨
      s.cmdparam[s.par.slotFc] ∉ [s.par.fcEee, s.par.fcQuick, s.par.fcQuery, s.par.fcComplete]) :
    s.launch = s.raise .cmdReserved := by
  unfold State.launch
  split
  · next hcmd =>
    rw [State.slot, commandOf_none (h.resolve_left (not_not_intro hcmd))]
  · rfl

/-- The controller refuses a command exactly where it is an illegal SET_QUICK. -/
theorem State.commandLegal_iff (s : State) (c : Command) (len : Half) :
    s.commandLegal c len ↔ ¬ (c = .setQuick ∧ s.quickLegal len = false) := by
  simp only [State.commandLegal, State.quickLegal, windowOk, not_and, Bool.not_eq_false, Bool.and_eq_true,
    decide_eq_true_eq]

theorem State.launch_command {s : State} (h : s.par.wf = true) {c : Command}
    (hcmd : s.cmdparam[s.par.slotCmd] = s.par.cmdSetfr) (hfc : s.cmdparam[s.par.slotFc] = c.code s.par) :
    s.launch =
      if s.accerr || s.pviol then s.raise .launchWithError
      else if c = .setQuick ∧ s.quickLegal s.lenSlot = false then s.raise .cmdIllegalMode
      else { s with cstat := false, inflight := .cmd c s.lenSlot } := by
  rw [State.launch, State.slot, State.slot, if_pos hcmd, hfc, commandOf_code (Params.wf_codes h)]

theorem State.launch_with_error {s : State} (h : s.par.wf = true) {c : Command}
    (hcmd : s.cmdparam[s.par.slotCmd] = s.par.cmdSetfr) (hfc : s.cmdparam[s.par.slotFc] = c.code s.par)
    (he : s.accerr = true ∨ s.pviol = true) : s.launch = s.raise .launchWithError := by
  rw [State.launch_command h hcmd hfc, if_pos (by simpa using he)]

theorem State.launch_illegal {s : State} (h : s.par.wf = true) {c : Command}
    (hcmd : s.cmdparam[s.par.slotCmd] = s.par.cmdSetfr) (hfc : s.cmdparam[s.par.slotFc] = c.code s.par)
    (ha : s.accerr = false) (hp : s.pviol = false) (hl : ¬ s.commandLegal c s.lenSlot) :
    s.launch = s.raise .cmdIllegalMode := by
  rw [s.commandLegal_iff, not_not] at hl
  rw [State.launch_command h hcmd hfc, if_neg (by simp [ha, hp]), if_pos hl]

theorem State.launch_legal {s : State} (h : s.par.wf = true) {c : Command}
    (hcmd : s.cmdparam[s.par.slotCmd] = s.par.cmdSetfr) (hfc : s.cmdparam[s.par.slotFc] = c.code s.par)
    (ha : s.accerr = false) (hp : s.pviol = false) (hl : s.commandLegal c s.lenSlot) :
    s.launch = { s with cstat := false, inflight := .cmd c s.lenSlot } := by
  rw [s.commandLegal_iff] at hl
  rw [State.launch_command h hcmd hfc, if_neg (by simp [ha, hp]), if_neg hl]

/-! The step that is an access to a register. -/

theorem step_store_status {s : State} {addr : Word} {rest : List Input} {v : Byte} (hf : s.fault = none)
    (h : s.addresses addr s.par.offStatus) (hin : s.inputs = .store addr [v] :: rest) :
    step s = .next (State.writeStatus (statusWriteOf s.par v) { s with inputs := rest }) := by
  rw [step_of_store hf hin, State.cpuStore_register (s := { s with inputs := rest }) h]
  exact State.storeRegister_status { s with inputs := rest } v

theorem step_load_register {s : State} {addr : Word} {rest : List Input} {off : Nat} {v : Byte} (hf : s.fault = none)
    (h : s.addresses addr off) (hin : s.inputs = .load addr 1 :: rest) (hv : s.readRegister off = some v) :
    step s = .next { s with inputs := rest, loaded := [v] } := by
  rw [step_of_load hf hin]
  exact State.cpuLoad_register (s := { s with inputs := rest }) h hv

theorem step_store_cmdparam {s : State} {addr : Word} {rest : List Input} {v : Byte} {k : Fin 12} (hf : s.fault = none)
    (hapart : s.registersApart) (h : s.addresses addr s.par.offCmdparam[k])
    (hin : s.inputs = .store addr [v] :: rest) (hidle : s.inflight = .none) :
    step s = .next { s with inputs := rest, cmdparam := s.cmdparam.set k v } := by
  rw [step_of_store hf hin, State.cpuStore_register (s := { s with inputs := rest }) h,
    State.storeRegister_cmdparam (s := { s with inputs := rest }) hapart,
    State.writeParam_idle (s := { s with inputs := rest }) (s.not_busy_iff.mpr hidle)]
  rfl

/-- Settles O58: the address tells the register, and each access to it is the register's own rule. -/
theorem controllerRegisterAccess : Obligations.ControllerRegisterAccess := by
  intro s addr rest hf hwf hapart hstage
  refine ⟨fun haddr hoff => ⟨fun v hin => ?store, fun hin => ?status⟩, fun haddr hoff hin => ?config,
    fun k haddr hoff => ⟨fun hin => ?param, fun v hin hidle => ?storeParam⟩⟩
  case store =>
    intro len u
    have hstep := step_store_status hf ⟨hstage, haddr, hoff⟩ hin
    have hu : State.clearFlags (statusWriteOf s.par v) { s with inputs := rest } = u := rfl
    refine ⟨fun hcc => ?_, fun hcc hbusy => ?_, fun hcc hidle => ?_⟩
    · rw [hstep, State.writeStatus_without_cc hcc, hu]
    · rw [hstep, State.writeStatus_busy (s := { s with inputs := rest }) hcc hbusy, hu]
      rfl
    · rw [hstep, State.writeStatus_idle (s := { s with inputs := rest }) hcc hidle, hu]
      refine ⟨fun hnone => ?_, fun c hcmd hfc => ⟨fun he => ?_, fun ha hp hl => ?_, fun ha hp hl => ?_⟩⟩
      · rw [State.launch_reserved (s := u) hnone]
        rfl
      · rw [State.launch_with_error (s := u) hwf hcmd hfc he]
        rfl
      · rw [State.launch_illegal (s := u) hwf hcmd hfc ha hp hl]
        rfl
      · rw [State.launch_legal (s := u) hwf hcmd hfc ha hp hl]
        rfl
  case status =>
    obtain ⟨hcc, hcoll, haccerr, hpviol, hcstat⟩ := State.statusByte_flags hwf
    refine ⟨s.statusByte, step_load_register hf ⟨hstage, haddr, hoff⟩ hin s.readRegister_status, ?_, hcoll, haccerr,
      hpviol, hcstat, fun k hk => ?_⟩
    · rw [hcc, Bool.not_eq_true', s.not_busy_iff]
    · simp only [List.mem_cons, List.not_mem_nil, or_false, not_or] at hk
      rw [s.getLsbD_statusByte]
      simp [hk]
  case config =>
    refine ⟨s.configByte, step_load_register hf ⟨hstage, haddr, hoff⟩ hin (State.readRegister_config hapart), ?_,
      fun k hk => ?_⟩
    · rw [s.getLsbD_configByte, if_pos rfl, s.ready_iff]
    · rw [s.getLsbD_configByte, if_neg hk]
  case param => exact step_load_register hf ⟨hstage, haddr, hoff⟩ hin (State.readRegister_cmdparam hapart k)
  case storeParam => exact step_store_cmdparam hf hapart ⟨hstage, haddr, hoff⟩ hin hidle

end Sys2Proof.Machine
end

section
/-! SUPPORT. The staging buffer: every operation that issues no page keeps it, and one that issues a page stores it at its
address and leaves it in flight (20_memory.md R71, 40_dispatch_polling.md R130, R131). -/

namespace Sys2Proof.Machine

/-! Commands, launched or waited for. -/

@[simp] theorem State.writeParam_stage (k : Fin 12) (v : Byte) (s : State) : (s.writeParam k v).stage = s.stage := by
  unfold State.writeParam
  split <;> rfl

@[simp] theorem State.writeStatus_stage (w : StatusWrite) (s : State) : (s.writeStatus w).stage = s.stage := by
  simp only [State.writeStatus]
  split
  · split
    · rfl
    · rcases State.launch_cases (s.clearFlags w) with ⟨r, -, e⟩ | ⟨c, -, -, -, -, e⟩ <;> rw [e] <;> rfl
  · rfl

@[simp] theorem State.issueCommand_stage (fcode : Byte) (len : Half) (s : State) :
    (s.issueCommand fcode len).stage = s.stage := by
  rcases State.issueCommand_cases fcode len s with ⟨-, e⟩ | ⟨-, v, ⟨r, -, e⟩ | ⟨c, l, -, e⟩⟩ <;> rw [e] <;> rfl

@[simp] theorem State.dispatchCommand_stage (op : Byte) (w : WaitPoint) (fcode : Byte) (len : Half) (s : State) :
    (s.dispatchCommand op w fcode len).stage = s.stage := by
  unfold State.dispatchCommand
  split
  · rfl
  · rcases State.ifSound_cases (s.w1c.issueCommand fcode len) (State.startWait op w) with ⟨-, e⟩ | ⟨-, e⟩ <;>
      rw [e] <;> simp

/-! INIT, READ, COMPARE, quick writes and WAIT_READY. -/

@[simp] theorem State.initQueryStep_stage (s : State) : s.initQueryStep.stage = s.stage :=
  State.dispatchCommand_stage ..

@[simp] theorem State.initOnlineStep_stage (s : State) : s.initOnlineStep.stage = s.stage := by
  unfold State.initOnlineStep
  split <;> simp

@[simp] theorem State.initReportStep_stage (s : State) : s.initReportStep.stage = s.stage := by
  simp only [State.initReportStep]
  split <;> simp [State.initDoneStep, State.reportBo]

@[simp] theorem State.initCheckStep_stage (cfg : Word) (s : State) : (s.initCheckStep cfg).stage = s.stage := by
  unfold State.initCheckStep
  split <;> simp

theorem State.whenReadable_stage {body : State → State} {s : State} (hb : (body s).stage = s.stage) :
    (s.whenReadable body).stage = s.stage := by
  simp only [State.whenReadable, apply_ite State.stage, State.finish_stage, State.raise_stage, hb, ite_self]

theorem State.compareOut_stage (src buf len : Word) (s : State) : (s.compareOut src buf len).stage = s.stage := by
  unfold State.compareOut
  split <;> rfl

theorem State.quickCheckStep_stage (dst src len : Word) (w : Half) (s : State) :
    (s.quickCheckStep dst src len w).stage = s.stage := by
  simp only [State.quickCheckStep, apply_ite State.stage, State.reject_stage, State.finish_stage, ite_self]

theorem State.quickEnterStep_stage (w : Half) (s : State) : (s.quickEnterStep w).stage = s.stage := by
  simp only [State.quickEnterStep, apply_ite State.stage, State.reject_stage, State.dispatchCommand_stage, ite_self]

theorem State.waitReadyStep_stage (s : State) : s.waitReadyStep.stage = s.stage := by
  unfold State.waitReadyStep
  split <;> rfl

theorem State.asyncBusy_stage (op : Byte) (s : State) : (s.asyncBusy op).stage = s.stage := by
  unfold State.asyncBusy
  split
  · rfl
  · split <;> rfl

/-! The end of a command's wait. -/

theorem State.commandEnd_stage {op : Byte} {expired : Bool} {k : Status → State → State} {s : State}
    (hk : ∀ (st : Status) (u : State), (k st u).stage = u.stage) : (s.commandEnd op expired k).stage = s.stage := by
  unfold State.commandEnd
  split
  · exact hk _ _
  · exact hk _ _

theorem State.afterInitOnline_stage (st : Status) (s : State) : (s.afterInitOnline st).stage = s.stage := by
  unfold State.afterInitOnline
  split <;> simp

theorem State.afterInitQuery_stage (st : Status) (s : State) : (s.afterInitQuery st).stage = s.stage := by
  unfold State.afterInitQuery
  split <;> simp

theorem State.afterInitMaint_stage (st : Status) (s : State) : (s.afterInitMaint st).stage = s.stage := by
  unfold State.afterInitMaint
  split <;> simp

theorem State.afterInitRecheck_stage (st : Status) (s : State) : (s.afterInitRecheck st).stage = s.stage := by
  unfold State.afterInitRecheck
  split <;> rfl

theorem State.afterQuickEnter_stage (st : Status) (s : State) : (s.afterQuickEnter st).stage = s.stage := by
  unfold State.afterQuickEnter
  split
  · rfl
  · split <;> simp

theorem State.afterQuickFallback_stage (st : Status) (s : State) : (s.afterQuickFallback st).stage = s.stage := by
  unfold State.afterQuickFallback
  split <;> rfl

theorem State.afterQuickExit_stage (st : Status) (s : State) : (s.afterQuickExit st).stage = s.stage := by
  unfold State.afterQuickExit
  split <;> rfl

theorem State.afterReady_stage (op : Byte) (expired : Bool) (s : State) : (s.afterReady op expired).stage = s.stage := by
  unfold State.afterReady
  split <;> rfl

/-! What is no instruction. -/

theorem State.callbackBreach_stage (how : CallbackBreach) (s : State) : (s.callbackBreach how).stage = s.stage := by
  unfold State.callbackBreach
  split
  · rfl
  · split <;> rfl

theorem State.cpuLoad_stage {a : Word} {n : Nat} {s t : State} (h : s.cpuLoad a n = .next t) : t.stage = s.stage := by
  unfold State.cpuLoad at h
  split at h
  · cases h; rfl
  · split at h
    · split at h
      · cases h; rfl
      · cases h
    · split at h
      · cases h
      · cases h; rfl

theorem State.storeRegister_stage {off : Nat} {v : Byte} {s t : State} (h : s.storeRegister off v = .next t) :
    t.stage = s.stage := by
  unfold State.storeRegister at h
  split at h
  · cases h; simp
  · split at h
    · cases h; simp
    · cases h

/-- A store of the CPU to the staging window is STAGE_WRITE_BYPASS and changes no byte (40_dispatch_polling.md R150). -/
theorem State.cpuStore_stage {a : Word} {data : List Byte} {s t : State} (h : s.cpuStore a data = .next t) :
    t.stage = s.stage := by
  unfold State.cpuStore at h
  split at h
  · cases h; rfl
  · split at h
    · split at h
      · exact State.storeRegister_stage h
      · cases h
    · split at h
      · cases h
      · cases h; rfl

end Sys2Proof.Machine
end

section
/-! SUPPORT. Pages alone write the staging buffer, outside the controller's step and reset. -/

namespace Sys2Proof.Machine

/-- The staging buffer and what is in flight over it. -/
def State.staging (s : State) : Mem × Inflight := (s.stage, s.inflight)

/-- What a step that is neither the controller's nor a reset may do to `Stage`: nothing, or one page of one byte or four,
issued with CC = 1 and left in flight (40_dispatch_polling.md R130, R131, R134). -/
inductive State.Stages (s t : State) : Prop
  | kept (hstage : t.stage = s.stage)
  | page (a : Word) (bytes : List Byte) (hidle : s.inflight = .none) (hsize : bytes.length = 1 ∨ bytes.length = 4)
      (hnew : t.staging = (Mem.writeBytes s.stage a.toNat bytes, .page a bytes.length))

theorem State.Stages.congr {s t s' t' : State} (h : s.Stages t) (hs : s'.staging = s.staging)
    (ht : t'.staging = t.staging) : s'.Stages t' := by
  obtain ⟨hstage, hflight⟩ := Prod.ext_iff.mp hs
  cases h with
  | kept h => exact .kept ((congrArg Prod.fst ht).trans (h.trans hstage.symm))
  | page a bytes hidle hsize hnew =>
    exact .page a bytes (hflight.trans hidle) hsize ((ht.trans hnew).trans (by rw [show s'.stage = s.stage from hstage]))

theorem State.Stages.congr_left {s t s' : State} (h : s.Stages t) (hs : s'.staging = s.staging) : s'.Stages t :=
  h.congr hs rfl

/-- A byte that reads otherwise lies under the page put in flight. -/
theorem State.Stages.changed {s t : State} (h : s.Stages t) {b : Nat} (hne : Mem.read t.stage b ≠ Mem.read s.stage b) :
    ∃ a n, s.inflight = .none ∧ t.inflight = .page a n ∧ (n = 1 ∨ n = 4) ∧ inRange b a.toNat n := by
  cases h with
  | kept hstage => exact absurd (by rw [hstage]) hne
  | page a bytes hidle hsize hnew =>
    obtain ⟨hstage, hflight⟩ := Prod.ext_iff.mp hnew
    refine ⟨a, bytes.length, hidle, hflight, hsize, ?_⟩
    by_contra hout
    rw [show t.stage = _ from hstage] at hne
    exact hne (Mem.read_writeBytes_other _ (by unfold inRange at hout; omega))

/-! Branches. -/

theorem State.Stages.ifSound {s u : State} {f : State → State} (h : s.Stages u)
    (hf : (f u).staging = u.staging) : s.Stages (u.ifSound f) := by
  rcases State.ifSound_cases u f with ⟨-, e⟩ | ⟨-, e⟩ <;> rw [e]
  · exact h.congr rfl hf
  · exact h

theorem State.Stages.whenInit {op : Byte} {n : Option Nat} {body : State → State} {s : State}
    (hb : s.Stages (body s)) : s.Stages (s.whenInit op n body) := by
  unfold State.whenInit
  split
  · exact hb
  · exact .kept rfl

theorem State.Stages.whenJob {op : Byte} {n : Option Nat} {c : JobCheck} {body : State → State} {s : State}
    (hb : s.Stages (body s)) : s.Stages (s.whenJob op n c body) := by
  cases c with
  | accept => exact hb
  | reject d => exact .kept rfl
  | stop r => exact .kept rfl

theorem State.Stages.invoke {op : Byte} {body : State → State} {s t : State} (h : s.invoke op body = .next t)
    (hb : ∀ u : State, u.Stages (body u)) : s.Stages t := by
  rcases State.invoke_cases h with ⟨-, ⟨-, -, rfl⟩ | ⟨-, -, rfl⟩ | ⟨-, rfl⟩⟩
  · exact (hb { s with ret := none }).congr_left rfl
  · exact .kept rfl
  · exact .kept rfl

theorem State.Stages.issueRaw {body : State → State} {s t : State} (h : s.issueRaw body = .next t)
    (hb : s.Stages (body s)) : s.Stages t := by
  rcases State.issueRaw_cases h with ⟨-, ⟨-, rfl⟩ | ⟨-, rfl⟩⟩
  · exact hb
  · exact .kept rfl

/-! Pages and the transfers made of them. -/

theorem State.issuePage_stages {a : Word} {bytes : List Byte} (hsize : bytes.length = 1 ∨ bytes.length = 4) (s : State) :
    s.Stages (s.issuePage a bytes) := by
  rcases State.issuePage_cases a bytes s with ⟨r, -, e⟩ | ⟨hnone, e⟩ <;> rw [e]
  · exact .kept rfl
  · obtain ⟨hb, -⟩ := State.pagePrecheck_none hnone
    exact .page a bytes (s.not_busy_iff.mp hb) hsize rfl

/-- The pages of a transfer have one byte or four (40_dispatch_polling.md R132). -/
theorem State.length_nextPage (d r : Word) (s : State) :
    (s.pageBytes (pageSize d r)).length = 1 ∨ (s.pageBytes (pageSize d r)).length = 4 := by
  rw [State.length_pageBytes]
  exact (pageSize_cases d r).symm.imp And.left And.left

theorem State.writeLoop_stages (op : Byte) (len : Word) (s : State) : s.Stages (s.writeLoop op len) := by
  unfold State.writeLoop
  split
  · exact .kept rfl
  · exact (State.issuePage_stages (State.length_nextPage ..) s).ifSound rfl

theorem State.startSync_stages (op : Byte) (dst len : Word) (src : Option Word) (s : State) :
    s.Stages (s.startSync op dst len src) := by
  unfold State.startSync
  split
  · exact (State.writeLoop_stages op len _).congr_left rfl
  · exact .kept rfl

theorem State.afterPage_stages (op : Byte) (len : Word) (expired : Bool) (s : State) :
    s.Stages (s.afterPage op len expired) := by
  unfold State.afterPage
  split
  · exact .kept rfl
  · split
    · exact .kept rfl
    · exact (State.writeLoop_stages op len _).congr_left rfl

theorem State.asyncStep_stages (op : Byte) (s : State) : s.Stages (s.asyncStep op) := by
  unfold State.asyncStep
  split
  · exact .kept (s.asyncBusy_stage op)
  · split
    · exact .kept rfl
    · split
      · exact .kept rfl
      · exact ((State.issuePage_stages (State.length_nextPage ..) { s with issued := false }).ifSound rfl).congr rfl rfl

theorem State.startAsync_stages (op : Byte) (dst len : Word) (src : Option Word) (s : State) :
    s.Stages (s.startAsync op dst len src) := by
  unfold State.startAsync
  split
  · exact (State.asyncStep_stages op _).congr_left rfl
  · exact .kept rfl

theorem State.pollResult_stages (s : State) : s.Stages s.pollResult := by
  unfold State.pollResult
  split
  · exact s.asyncStep_stages _
  all_goals exact .kept rfl

/-! A poll of the operation that waits. -/

theorem State.afterWait_stages (op : Byte) (w : WaitPoint) (expired : Bool) (s : State) :
    s.Stages (s.afterWait op w expired) := by
  cases w with
  | dispatched => exact .kept (State.commandEnd_stage fun _ _ => rfl)
  | initOnline => exact .kept (State.commandEnd_stage State.afterInitOnline_stage)
  | initQuery => exact .kept (State.commandEnd_stage State.afterInitQuery_stage)
  | initMaint => exact .kept (State.commandEnd_stage State.afterInitMaint_stage)
  | initRecheck => exact .kept (State.commandEnd_stage State.afterInitRecheck_stage)
  | quickEnter => exact .kept (State.commandEnd_stage State.afterQuickEnter_stage)
  | quickFallback => exact .kept (State.commandEnd_stage State.afterQuickFallback_stage)
  | quickExit => exact .kept (State.commandEnd_stage State.afterQuickExit_stage)
  | page len => exact State.afterPage_stages op len expired s
  | ready => exact .kept (State.afterReady_stage op expired s)

theorem State.sequencerStep_stages (s : State) : s.Stages s.sequencerStep := by
  unfold State.sequencerStep
  split
  · exact .kept rfl
  · next op w _ =>
    unfold State.pollIteration
    split
    · split
      · exact .kept rfl
      · split
        · exact (s.callCallback.countDown.afterWait_stages op w true).congr rfl rfl
        · exact .kept rfl
    · exact s.afterWait_stages op w false

/-! Every instruction. -/

/-- INIT and the CRC operations keep the staging buffer. -/
theorem exec_stages_of_beforeInit {i : Instr} (hcrc : beforeInit i = true) {s t : State} (h : exec i s = .next t) :
    s.Stages t := by
  cases i with
  | init cfg =>
    refine State.Stages.invoke (show execInit cfg s = .next t from h) fun u => .kept ?_
    simp only [apply_ite State.stage, State.reject_stage, State.raise_stage, State.initCheckStep_stage,
      State.checkCfg_stage, ite_self]
  | crcReset => exact State.Stages.invoke (show execCrcReset s = .next t from h) fun _ => .kept rfl
  | crcFold8 b => exact State.Stages.invoke (show execCrcFold8 b s = .next t from h) fun _ => .kept rfl
  | crcFold16 x => exact State.Stages.invoke (show execCrcFold16 x s = .next t from h) fun _ => .kept rfl
  | crcFinalize => exact State.Stages.invoke (show execCrcFinalize s = .next t from h) fun _ => .kept rfl
  | crcCheckCfg cfg =>
    refine State.Stages.invoke (show execCrcCheckCfg cfg s = .next t from h) fun u => ?_
    split
    · exact .kept rfl
    · split <;> exact .kept rfl
  | _ => cases hcrc

theorem execRoutineLoad_stages {kind : Byte} {s t : State} (h : execRoutineLoad kind s = .next t) : s.Stages t := by
  refine State.Stages.invoke h fun u => State.Stages.whenInit ?_
  split <;> exact .kept rfl

theorem exec_stages {i : Instr} {s t : State} (h : exec i s = .next t) : s.Stages t := by
  cases i with
  | init | crcReset | crcFold8 | crcFold16 | crcFinalize | crcCheckCfg => exact exec_stages_of_beforeInit rfl h
  | writeS | eraseS => exact State.Stages.invoke h fun u => State.Stages.whenJob (State.startSync_stages ..)
  | writeA | eraseA => exact State.Stages.invoke h fun u => State.Stages.whenJob (State.startAsync_stages ..)
  | poll => exact State.Stages.invoke h fun u => State.Stages.whenInit u.pollResult_stages
  | read => exact State.Stages.invoke h fun u => State.Stages.whenJob (.kept (State.whenReadable_stage rfl))
  | compare =>
    exact State.Stages.invoke h fun u =>
      State.Stages.whenJob (.kept (State.whenReadable_stage (State.compareOut_stage ..)))
  | quickCheck => exact State.Stages.invoke h fun u => State.Stages.whenInit (.kept (State.quickCheckStep_stage ..))
  | quickEnter => exact State.Stages.invoke h fun u => State.Stages.whenInit (.kept (State.quickEnterStep_stage ..))
  | waitReady => exact State.Stages.invoke h fun u => State.Stages.whenInit (.kept u.waitReadyStep_stage)
  | quickExit | dispatch =>
    exact State.Stages.invoke h fun u => State.Stages.whenInit (.kept (State.dispatchCommand_stage ..))
  | routineLoad => exact execRoutineLoad_stages h
  | routineUnload => exact State.Stages.invoke h fun u => State.Stages.whenInit (.kept rfl)
  | setEee | setQuick | query | complete =>
    exact State.Stages.issueRaw h (.kept (State.issueCommand_stage ..))
  | page1 => exact State.Stages.issueRaw h (s.issuePage_stages (.inl rfl))
  | page4 => exact State.Stages.issueRaw h (s.issuePage_stages (.inr rfl))

/-- Settles O16: every step but the controller's and a reset keeps `Stage` or issues a page over it. -/
theorem onlyPagesWriteStaging : Obligations.OnlyPagesWriteStaging := by
  intro s t b h hne
  cases step_moves h with
  | reset hin => exact .inr (.inl ⟨_, _, hin⟩)
  | controller _ hin => exact .inl ⟨_, _, hin⟩
  | exhausted _ _ => exact .inr (.inr (s.sequencerStep_stages.changed hne))
  | @sequencer rest _ _ => exact .inr (.inr ((State.sequencerStep_stages { s with inputs := rest }).changed hne))
  | @instruction _ rest _ _ _ _ _ hexec =>
    exact .inr (.inr ((exec_stages (s := { s with inputs := rest }) hexec).changed hne))
  | undecoded _ _ _ => exact absurd rfl hne
  | @breach how rest _ _ =>
    exact absurd (congrArg (Mem.read · b) (State.callbackBreach_stage how { s with inputs := rest })) hne
  | @load _ _ rest _ _ _ hload =>
    exact absurd (congrArg (Mem.read · b) (State.cpuLoad_stage (s := { s with inputs := rest }) hload)) hne
  | @store _ _ rest _ _ _ hstore =>
    exact absurd (congrArg (Mem.read · b) (State.cpuStore_stage (s := { s with inputs := rest }) hstore)) hne

end Sys2Proof.Machine
end

section
/-! SUPPORT. Error-free pages: what one leaves in the memories (20_memory.md R71, 40_dispatch_polling.md R148), and how
many a transfer takes (41_write_paths.md R161). -/

namespace Sys2Proof.Machine

/-! The bytes of a page (40_dispatch_polling.md R133). -/

/-- The byte that a transfer's pages put at the staging address `b`: the buffer's, or the erased value. -/
def State.pageValue (s : State) (b : Nat) : Byte :=
  match s.srckind with
  | .buffer => Mem.read s.mem (s.src.toNat + (b - s.dst.toNat))
  | .pattern => s.par.erasedValue

theorem Mem.read_writeBytes {m : Mem} (hm : Mem.wf m) (a b : Nat) (bs : List Byte) :
    Mem.read (Mem.writeBytes m a bs) b = if inRange b a bs.length then bs.getD (b - a) 0#8 else Mem.read m b := by
  by_cases hb : inRange b a bs.length
  · obtain ⟨i, rfl⟩ := Nat.exists_eq_add_of_le hb.1
    have hi : i < bs.length := by omega
    rw [if_pos hb, Mem.read_writeBytes_inside hm hi, Nat.add_sub_cancel_left, List.getD_eq_getElem _ _ hi]
  · rw [if_neg hb, Mem.read_writeBytes_other _ (by unfold inRange at hb; omega)]

theorem State.pageBytes_getD {s : State} {b n : Nat} (hb : inRange b s.dst.toNat n) :
    (s.pageBytes n).getD (b - s.dst.toNat) 0#8 = s.pageValue b := by
  have hi : b - s.dst.toNat < n := by omega
  unfold State.pageBytes State.pageValue
  cases s.srckind with
  | buffer => simp [hi]
  | pattern => simp [hi]

/-! The memories after pages. -/

/-- `fc.nv` after the page of `n` bytes at `a` has completed without error (40_dispatch_polling.md R148). -/
def State.nvAfterPage (a : Word) (n : Nat) (s : State) : Mem :=
  if s.quickMode then s.nv else Mem.copyAt s.stage (addrsFrom a.toNat n) s.nv

/-- The dirty set after that page (40_dispatch_polling.md R148). -/
def State.dirtyAfterPage (a : Word) (n : Nat) (s : State) : List Nat :=
  if s.quickMode then (addrsFrom a.toNat n).foldl (fun q x => insertAddr x q) s.qdirty else s.qdirty

theorem State.completePage_eq (a : Word) (n : Nat) (s : State) :
    s.completePage a n = { s with nv := s.nvAfterPage a n, qdirty := s.dirtyAfterPage a n } := by
  unfold State.completePage State.nvAfterPage State.dirtyAfterPage
  split <;> rfl

/-- The controller's step that completes a page without error (40_dispatch_polling.md R146, R148). -/
theorem State.fcComplete_page {s : State} {d : FcDraw} {a : Word} {n : Nat} (hd : d.clean = true)
    (hp : s.inflight = .page a n) :
    s.fcComplete d =
      { s with nv := s.nvAfterPage a n, qdirty := s.dirtyAfterPage a n, cstat := false, inflight := .none } := by
  obtain ⟨⟨haccerr, hpviol⟩, hcstat⟩ : (d.accerr = false ∧ d.pviol = false) ∧ d.cstat = false := by
    simpa [FcDraw.clean] using hd
  have hwork : s.completeWork d = s.completePage a n := by rw [State.completeWork, hp]; exact if_pos hd
  rw [State.fcComplete, if_pos (s.busy_iff.mpr (by simp [hp])), hwork, State.completePage_eq, haccerr, hpviol, hcstat,
    Bool.or_false, Bool.or_false]

/-- The pages over `[a, a + n)` and then those over `[a + n, a + n + m)` are pages over both. -/
theorem State.holdsPages.trans {s t u : State} {a n m : Nat} {f g : Nat → Byte} (h : s.holdsPages t a n f)
    (h' : t.holdsPages u (a + n) m g) (hmode : t.quickMode = s.quickMode) (hfg : ∀ b, a + n ≤ b → g b = f b) :
    s.holdsPages u a (n + m) f := by
  have join {p q r : Byte} {b : Nat} (hp : p = if inRange b (a + n) m then g b else q)
      (hq : q = if inRange b a n then f b else r) : p = if inRange b a (n + m) then f b else r := by
    by_cases hright : inRange b (a + n) m
    · rw [hp, if_pos hright, if_pos (by omega), hfg b hright.1]
    · by_cases hleft : inRange b a n
      · rw [hp, if_neg hright, hq, if_pos hleft, if_pos (by omega)]
      · rw [hp, if_neg hright, hq, if_neg hleft, if_neg (by omega)]
  obtain ⟨hstage, hnv⟩ := h
  obtain ⟨hstage', hnv'⟩ := h'
  refine ⟨fun b => join (hstage' b) (hstage b), ?_⟩
  rw [hmode] at hnv'
  split
  · next hq =>
    rw [if_pos hq] at hnv hnv'
    refine ⟨hnv'.1.trans hnv.1, fun b => ?_⟩
    rw [hnv'.2 b, hnv.2 b, or_assoc]
    exact or_congr_right (by omega)
  · next hq =>
    rw [if_neg hq] at hnv hnv'
    exact ⟨hnv'.1.trans hnv.1, fun b => join (hnv'.2 b) (hnv.2 b)⟩

/-! One page. -/

/-- The size of the page at the cursor (40_dispatch_polling.md R132). -/
abbrev State.nextPage (s : State) : Nat := pageSize s.dst s.rem

theorem State.nextPage_le {s : State} (hrem : s.rem ≠ 0#32) : s.nextPage ≤ s.rem.toNat := pageSize_le hrem

/-- `Stage` with the page at the cursor stored. -/
def State.stageNextPage (s : State) : State :=
  { s with stage := Mem.writeBytes s.stage s.dst.toNat (s.pageBytes s.nextPage) }

/-- The page at the cursor stored and in flight, the flags clear (40_dispatch_polling.md R130, R131). -/
def State.issueNextPage (s : State) : State :=
  { s.stageNextPage with
    coll := false, accerr := false, pviol := false, cstat := false, inflight := .page s.dst s.nextPage }

/-- The state once the page at the cursor has been issued, has completed without error and is moved past (41_write_paths.md
R160, R172). -/
def State.passPage (s : State) : State :=
  { s with
    coll := false, accerr := false, pviol := false, cstat := false, inflight := .none, stage := s.stageNextPage.stage
    nv := s.stageNextPage.nvAfterPage s.dst s.nextPage, qdirty := s.stageNextPage.dirtyAfterPage s.dst s.nextPage
    dst := s.dst + BitVec.ofNat 32 s.nextPage, src := s.src + BitVec.ofNat 32 s.nextPage
    rem := s.rem - BitVec.ofNat 32 s.nextPage, tmo := s.par.timeout.getD s.tmo }

/-- What is left of the transfer passes the checks of every page issue (40_dispatch_polling.md R134), and its addresses do
not wrap. -/
structure State.MayPage (s : State) : Prop where
  sound : s.fault = none
  idle : s.inflight = .none
  online : s.mode ≠ .offline
  resident : s.routineMissing = false
  words : s.quickMode = true → s.dst.toNat % 4 = 0 ∧ s.rem.toNat % 4 = 0
  range : s.dst.toNat + s.rem.toNat ≤ s.par.eeeSize
  staging : s.par.eeeSize ≤ 2 ^ 32
  buffer : s.srckind = .buffer → s.src.toNat + s.rem.toNat ≤ 2 ^ 32
  stage : Mem.wf s.stage
  nv : Mem.wf s.nv

theorem State.MayPage.issuePage {s : State} (h : s.MayPage) (hrem : s.rem ≠ 0#32) :
    s.issuePage s.dst (s.pageBytes s.nextPage) = s.issueNextPage := by
  have hle := State.nextPage_le hrem
  have hpass : s.pagePrecheck s.dst s.nextPage = none := by
    have hrange := h.range
    refine State.pagePrecheck_of (s.not_busy_iff.mpr h.idle) (s.ready_iff.mpr h.online) (by omega) (fun hn => ?_)
      (fun hq => ?_) h.resident
    · rcases pageSize_cases s.dst s.rem with ⟨-, haligned, -⟩ | ⟨hone, -⟩
      · exact haligned
      · cases hone.symm.trans hn
    · obtain ⟨hdst, hwords⟩ := h.words hq
      exact if_pos ⟨hdst, by bv_omega⟩
  rcases State.issuePage_cases s.dst (s.pageBytes s.nextPage) s with ⟨r, hr, -⟩ | ⟨-, e⟩
  · rw [State.length_pageBytes, hpass] at hr
    cases hr
  · rw [e, State.length_pageBytes]
    simp [State.w1c, State.clearFlags, clrMask, State.issueNextPage, State.stageNextPage]

/-- A page that is left is no more than what is left, and the cursor passes it without a wrap but at the end. -/
theorem State.MayPage.cursor {s : State} (h : s.MayPage) (hrem : s.rem ≠ 0#32) :
    s.passPage.rem.toNat = s.rem.toNat - s.nextPage ∧ s.nextPage ≤ s.rem.toNat ∧
      (s.passPage.rem ≠ 0#32 → s.passPage.dst.toNat = s.dst.toNat + s.nextPage ∧
        (s.srckind = .buffer → s.passPage.src.toNat = s.src.toNat + s.nextPage)) := by
  have hle := State.nextPage_le hrem
  have hrange := h.range
  have hstaging := h.staging
  have hlt := s.rem.isLt
  have hleft : s.passPage.rem.toNat = s.rem.toNat - s.nextPage := by
    simp only [State.passPage, BitVec.toNat_sub, BitVec.toNat_ofNat]
    omega
  refine ⟨hleft, hle, fun hne => ?_⟩
  have hpos : 0 < s.passPage.rem.toNat := by bv_omega
  refine ⟨?_, fun hk => ?_⟩
  · simp only [State.passPage, BitVec.toNat_add, BitVec.toNat_ofNat]
    omega
  · have hbuffer := h.buffer hk
    simp only [State.passPage, BitVec.toNat_add, BitVec.toNat_ofNat]
    omega

theorem Mem.wf_nvAfterPage {s : State} (h : Mem.wf s.nv) (a : Word) (n : Nat) : Mem.wf (s.nvAfterPage a n) := by
  unfold State.nvAfterPage
  split
  · exact h
  · exact Mem.wf_copyAt _ _ h

/-- The page after it passes its checks as well. -/
theorem State.MayPage.passPage {s : State} (h : s.MayPage) (hrem : s.rem ≠ 0#32) : s.passPage.MayPage := by
  have hrange := h.range
  have hstaging := h.staging
  obtain ⟨hleft, hle, hcursor⟩ := h.cursor hrem
  have hlt := s.passPage.dst.isLt
  have hlt' := s.passPage.src.isLt
  exact { h with
    idle := rfl
    words := fun hq => by
      obtain ⟨hdst, hwords⟩ := h.words hq
      have hfour : s.nextPage = 4 := if_pos ⟨hdst, by bv_omega⟩
      refine ⟨?_, by omega⟩
      simp only [State.passPage, BitVec.toNat_add, BitVec.toNat_ofNat]
      omega
    range := (State.advance_range hle).1.trans hrange
    buffer := fun hk => by
      have hbuffer := h.buffer hk
      by_cases hne : s.passPage.rem = 0#32
      · rw [hne]
        exact hlt'.le
      · rw [(hcursor hne).2 hk]
        omega
    stage := Mem.wf_writeBytes h.stage _ _
    nv := Mem.wf_nvAfterPage (s := s.stageNextPage) h.nv _ _ }

theorem State.MayPage.holdsPages {s : State} (h : s.MayPage) :
    s.holdsPages s.passPage s.dst.toNat s.nextPage s.pageValue := by
  have hstage (b : Nat) : Mem.read s.stageNextPage.stage b =
      if inRange b s.dst.toNat s.nextPage then s.pageValue b else Mem.read s.stage b := by
    rw [State.stageNextPage, Mem.read_writeBytes h.stage, State.length_pageBytes]
    split
    · exact State.pageBytes_getD ‹_›
    · rfl
  have hmode : s.stageNextPage.quickMode = s.quickMode := rfl
  refine ⟨hstage, ?_⟩
  simp only [State.passPage, State.nvAfterPage, State.dirtyAfterPage, hmode]
  cases s.quickMode with
  | true =>
    refine ⟨rfl, fun b => ?_⟩
    rw [if_pos rfl, mem_foldl_insertAddr, mem_addrsFrom]
    exact Or.comm
  | false =>
    refine ⟨rfl, fun b => ?_⟩
    rw [if_neg Bool.false_ne_true, Mem.read_copyAt _ _ (m := s.stageNextPage.nv) h.nv, hstage]
    simp only [mem_addrsFrom]
    split <;> rfl

/-- Moved past a page, the transfer puts the same bytes at the addresses that are left. -/
theorem State.MayPage.pageValue_passPage {s : State} (h : s.MayPage) (hrem : s.rem ≠ 0#32)
    (hleft : s.passPage.rem ≠ 0#32) {b : Nat} (hb : s.dst.toNat + s.nextPage ≤ b) : s.passPage.pageValue b = s.pageValue b := by
  obtain ⟨-, -, hcursor⟩ := h.cursor hrem
  obtain ⟨hdst, hsrc⟩ := hcursor hleft
  have hkind : s.passPage.srckind = s.srckind := rfl
  unfold State.pageValue
  rw [hkind]
  cases hk : s.srckind with
  | pattern => rfl
  | buffer =>
    simp only [hdst, hsrc hk]
    exact congrArg (Mem.read s.mem) (by omega)

/-! The page count (41_write_paths.md R161). -/

theorem pageCount_zero (dst : Word) : pageCount dst 0#32 = 0 := by simp [pageCount]

/-- The first page and the pages of the rest. -/
theorem pageCount_next (dst : Word) {len : Word} (h : len ≠ 0#32) :
    pageCount dst len =
      pageCount (dst + BitVec.ofNat 32 (pageSize dst len)) (len - BitVec.ofNat 32 (pageSize dst len)) + 1 := by
  have hpos : 0 < len.toNat := by bv_omega
  have hlt := len.isLt
  rcases pageSize_cases dst len with ⟨e, haligned, hword⟩ | ⟨e, hbyte⟩ <;>
  · simp only [e, pageCount, BitVec.toNat_add, BitVec.toNat_sub, BitVec.toNat_ofNat]
    omega

end Sys2Proof.Machine
end

section
/-! SUPPORT. A transfer whose pages all complete without error, synchronous or asynchronous: one loop, run page by page
(41_write_paths.md R160, R172). -/

namespace Sys2Proof.Machine

/-! Runs and their single steps. -/

theorem run_succ {M : Host.Core} {s t : M.State} (h : M.step s = .next t) (k : Nat) :
    M.run (k + 1) s = M.run k t := by
  rw [Host.Core.run, h]

theorem core_run_succ {s t : State} (h : step s = .next t) (k : Nat) :
    Sys2Proof.core.run (k + 1) s = Sys2Proof.core.run k t :=
  run_succ (M := Sys2Proof.core) h k

theorem step_of_fcComplete {s : State} {d : FcDraw} {rest : List Input} (hf : s.fault = none)
    (hin : s.inputs = .fcComplete d :: rest) : step s = .next (State.fcComplete d { s with inputs := rest }) :=
  step_of_other (by rw [State.nextAction, hf, hin])

theorem step_of_seqStep {s : State} {rest : List Input} (hf : s.fault = none) (hin : s.inputs = .seqStep :: rest) :
    step s = .next (State.sequencerStep { s with inputs := rest }) :=
  step_of_other (by rw [State.nextAction, hf, hin])

theorem step_of_issue {s : State} {w : IssueWord} {i : Instr} {rest : List Input} (hf : s.fault = none)
    (hin : s.inputs = .issue w :: rest) (hdec : decode s.par w = .ok i) :
    step s = exec i { s with inputs := rest } := by
  have hact : s.nextAction = State.present w { s with inputs := rest } := by rw [State.nextAction, hf, hin]
  exact step_of_run (hact.trans (State.present_of_ok (s := { s with inputs := rest }) hdec))

/-- A run of two steps a page, the page in flight in the states before its completion and nothing in flight in those after
it, and `waits` in every state before the last. -/
def State.WaitsFor (waits : State → Prop) (pages : Nat) (s t : State) : Prop :=
  Sys2Proof.core.run (2 * pages) s = .next t ∧
    ∀ k < 2 * pages, ∃ v, Sys2Proof.core.run k s = .next v ∧ waits v ∧ (v.inflight = .none ↔ k % 2 = 1)

theorem State.WaitsFor.zero (waits : State → Prop) (s : State) : s.WaitsFor waits 0 s := ⟨rfl, nofun⟩

theorem State.WaitsFor.succ {waits : State → Prop} {pages : Nat} {s v u t : State} (hsv : step s = .next v)
    (hvu : step v = .next u) (hs : waits s) (hbusy : s.inflight ≠ .none) (hv : waits v) (hidle : v.inflight = .none)
    (h : u.WaitsFor waits pages t) : s.WaitsFor waits (pages + 1) t := by
  have htwo (k : Nat) : Sys2Proof.core.run (k + 2) s = Sys2Proof.core.run k u :=
    (core_run_succ hsv (k + 1)).trans (core_run_succ hvu k)
  refine ⟨(htwo _).trans h.1, fun k hk => ?_⟩
  match k with
  | 0 => exact ⟨s, rfl, hs, by simp [hbusy]⟩
  | 1 => exact ⟨v, core_run_succ hsv 0, hv, by simp [hidle]⟩
  | k + 2 =>
    obtain ⟨x, hrun, hx, hflight⟩ := h.2 k (by omega)
    exact ⟨x, (htwo k).trans hrun, hx, by rw [hflight, Nat.add_mod_right]⟩

/-! One page and all pages. -/

/-- From `s` the transfer has moved past one page, and the inputs are `rest`. Where the operation stands, what it
returned last and whether a page is unchecked is the operation's own. -/
def State.PassesTo (rest : List Input) (s t : State) : Prop :=
  ∃ p r i, t = { s.passPage with pos := p, ret := r, issued := i, inputs := rest }

/-- From `s` the transfer has moved past all its pages, and the inputs are `rest`. -/
def State.TransfersTo (rest : List Input) (s t : State) : Prop :=
  t = { s with
    coll := false, accerr := false, pviol := false, cstat := false, inflight := .none
    stage := t.stage, nv := t.nv, qdirty := t.qdirty
    dst := s.dst + s.rem, src := s.src + s.rem, rem := 0#32, tmo := s.par.timeout.getD s.tmo
    pos := t.pos, ret := t.ret, issued := t.issued, inputs := rest } ∧
  s.holdsPages t s.dst.toNat s.rem.toNat s.pageValue

/-- A budget loaded again is the same budget. -/
theorem getD_getD_self {α : Type} (o : Option α) (x : α) : o.getD (o.getD x) = o.getD x := by
  cases o <;> rfl

theorem State.PassesTo.mayPage {rest : List Input} {s t : State} (h : s.PassesTo rest t) (hs : s.MayPage)
    (hrem : s.rem ≠ 0#32) : t.MayPage := by
  obtain ⟨p, r, i, rfl⟩ := h
  exact { hs.passPage hrem with }

/-- The page was the last. -/
theorem State.PassesTo.last {rest : List Input} {s t : State} (h : s.PassesTo rest t) (hs : s.MayPage)
    (hrem : s.rem ≠ 0#32) (hlast : t.rem = 0#32) : s.TransfersTo rest t := by
  obtain ⟨p, r, i, rfl⟩ := h
  have hall : BitVec.ofNat 32 s.nextPage = s.rem := (sub_eq_zero.mp hlast).symm
  obtain ⟨hleft, hle, -⟩ := hs.cursor hrem
  have hsize : s.nextPage = s.rem.toNat := by
    have hzero : s.passPage.rem.toNat = 0 := congrArg BitVec.toNat hlast
    omega
  refine ⟨?_, hsize ▸ hs.holdsPages⟩
  simp [State.passPage, hall]

/-- The page was not the last: the pages of the rest complete the transfer. -/
theorem State.PassesTo.trans {between rest : List Input} {s t u : State} (h : s.PassesTo between t) (hs : s.MayPage)
    (hrem : s.rem ≠ 0#32) (hmore : t.rem ≠ 0#32) (htu : t.TransfersTo rest u) : s.TransfersTo rest u := by
  obtain ⟨p, r, i, rfl⟩ := h
  obtain ⟨hleft, hle, hcursor⟩ := hs.cursor hrem
  obtain ⟨hdst, -⟩ := hcursor hmore
  obtain ⟨hu, hpages⟩ := htu
  refine ⟨hu.trans ?_, ?_⟩
  · have hend (x : Word) : x + BitVec.ofNat 32 s.nextPage + (s.rem - BitVec.ofNat 32 s.nextPage) = x + s.rem := by
      rw [BitVec.add_assoc, BitVec.add_comm (BitVec.ofNat 32 s.nextPage), BitVec.sub_add_cancel]
    simp only [State.passPage, hend, getD_getD_self]
  · have hrest : State.holdsPages s.passPage u (s.dst.toNat + s.nextPage) (s.rem.toNat - s.nextPage)
        s.passPage.pageValue := by
      rw [← hdst, ← hleft]
      exact hpages
    rw [← Nat.add_sub_cancel' hle]
    exact hs.holdsPages.trans hrest rfl fun b hb => hs.pageValue_passPage hrem hmore hb

/-- `go` carries a transfer on: with something left it issues the next page; once the controller has completed that without
error, the input `x` lets `go` carry on behind the page. -/
def CarriesOn (d : FcDraw) (x : Input) (go : State → State) (waits ctx : State → Prop) : Prop :=
  ∀ (u : State) (rest : List Input), ctx u → u.MayPage → u.rem ≠ 0#32 → u.inputs = .fcComplete d :: x :: rest →
    waits (go u) ∧ (go u).inflight ≠ .none ∧
      ∃ v w, step (go u) = .next v ∧ waits v ∧ v.inflight = .none ∧ step v = .next (go w) ∧ ctx w ∧ u.PassesTo rest w

/-- Page by page the whole transfer is carried on, to where nothing is left. -/
theorem CarriesOn.transfers {d : FcDraw} {x : Input} {go : State → State} {waits ctx : State → Prop}
    (h : CarriesOn d x go waits ctx) {pages : Nat} {rest : List Input} {s : State} (hctx : ctx s) (hs : s.MayPage)
    (hrem : s.rem ≠ 0#32) (hpages : pageCount s.dst s.rem = pages)
    (hin : s.inputs = (List.replicate pages [.fcComplete d, x]).flatten ++ rest) :
    ∃ t, (go s).WaitsFor waits pages (go t) ∧ ctx t ∧ s.TransfersTo rest t := by
  induction pages generalizing s with
  | zero =>
    rw [pageCount_next _ hrem] at hpages
    cases hpages
  | succ pages ih =>
    obtain ⟨hw, hbusy, v, u, hsv, hv, hidle, hvu, hu, hpass⟩ := h s _ hctx hs hrem hin
    have hu' := hpass.mayPage hs hrem
    have hcursor : u.dst = s.passPage.dst ∧ u.rem = s.passPage.rem ∧
        u.inputs = (List.replicate pages [.fcComplete d, x]).flatten ++ rest := by
      obtain ⟨p, r, i, rfl⟩ := hpass
      exact ⟨rfl, rfl, rfl⟩
    obtain ⟨hdst, hleft, huin⟩ := hcursor
    have hcount : pageCount u.dst u.rem = pages := by
      rw [pageCount_next _ hrem] at hpages
      rw [hdst, hleft]
      exact Nat.succ.inj hpages
    by_cases hlast : u.rem = 0#32
    · rw [hlast, pageCount_zero] at hcount
      subst hcount
      exact ⟨u, .succ hsv hvu hw hbusy hv hidle (.zero waits _), hu, hpass.last hs hrem hlast⟩
    · obtain ⟨t, hrun, ht, hall⟩ := ih hu hu' hlast hcount huin
      exact ⟨t, .succ hsv hvu hw hbusy hv hidle hrun, ht, hpass.trans hs hrem hlast hall⟩

/-! The two loops (41_write_paths.md R160, R172). -/

/-- The controller's step that completes the page in flight without error (40_dispatch_polling.md R146, R148). -/
theorem step_completes_page {s : State} {d : FcDraw} {a : Word} {n : Nat} {rest : List Input} (hd : d.clean = true)
    (hf : s.fault = none) (hin : s.inputs = .fcComplete d :: rest) (hp : s.inflight = .page a n) :
    step s = .next { s with
      nv := s.nvAfterPage a n, qdirty := s.dirtyAfterPage a n, cstat := false, inflight := .none, inputs := rest } := by
  rw [step_of_fcComplete hf hin, State.fcComplete_page (s := { s with inputs := rest }) hd hp]
  rfl

/-- The poll that finds a page of a synchronous transfer complete and without error moves past it (41_write_paths.md
R160). -/
theorem step_polls_page {s : State} {op : Byte} {len : Word} {rest : List Input} (hf : s.fault = none)
    (hin : s.inputs = .seqStep :: rest) (hpos : s.pos = .waiting op (.page len)) (hidle : s.inflight = .none)
    (herr : s.inError = false) :
    step s = .next (State.writeLoop op len (State.advance s.nextPage { s with inputs := rest })) := by
  have hpoll : State.sequencerStep { s with inputs := rest } =
      State.pollIteration op (.page len) { s with inputs := rest } := by
    rw [State.sequencerStep, hpos]
  have hready : State.pollIteration op (.page len) { s with inputs := rest } =
      State.afterPage op len false { s with inputs := rest } :=
    if_neg (by simpa [State.busy_eq] using hidle)
  have hclean : State.afterPage op len false { s with inputs := rest } =
      State.writeLoop op len (State.advance s.nextPage { s with inputs := rest }) :=
    (if_neg Bool.false_ne_true).trans (if_neg (by simpa [State.inError] using herr))
  rw [step_of_seqStep hf hin, hpoll, hready, hclean]

/-- The next page of a synchronous transfer, issued and waited for (41_write_paths.md R160). -/
theorem State.MayPage.writeLoop {s : State} (h : s.MayPage) (hrem : s.rem ≠ 0#32) (op : Byte) (len : Word) :
    s.writeLoop op len = s.issueNextPage.startWait op (.page len) := by
  rw [State.writeLoop, if_neg hrem, h.issuePage hrem, State.ifSound_of_sound (s := s.issueNextPage) h.sound]

/-- WRITE.S and ERASE.S: the poll that finds CC = 1 carries on. -/
theorem writeLoop_carriesOn {d : FcDraw} (hd : d.clean = true) (op : Byte) (len : Word) (checked : Bool) :
    CarriesOn d .seqStep (State.writeLoop op len) (fun v => v.pos = .waiting op (.page len))
      (fun u => u.issued = checked) := by
  intro u rest hctx hu hrem hin
  rw [hu.writeLoop hrem]
  refine ⟨rfl, nofun, _, _, step_completes_page hd (by exact hu.sound) hin rfl, rfl, rfl,
    step_polls_page (by exact hu.sound) rfl rfl rfl rfl, hctx, .waiting op (.page len), u.ret, u.issued, rfl⟩

end Sys2Proof.Machine
end

section
/-! SUPPORT. WRITE.S, WRITE.A and ERASE.A whose pages all complete without error, from their invocation to their end. -/

namespace Sys2Proof.Machine

/-! The invocation (60_exceptions.md R402; 41_write_paths.md R160, R170, R181). -/

/-- The state in which the body of an invoked operation starts: it has returned nothing yet. -/
def State.invoked (s : State) : State := { s with ret := none }

/-- An operation behind CHECK_JOB, invoked with a request that it accepts. -/
theorem State.invoke_accepted {s : State} {op : Byte} {a len : Word} {ptr : Option Word} (hs : s.callable)
    (hp : opPresent s.par op = true) (hjob : s.accepts a len) (hbuffer : ∀ q, ptr = some q → s.bufferOk q len)
    (n : Option Nat) (body : State → State) :
    s.invoke op (fun t => t.whenJob op n (t.checkJob a len ptr) body) = .next (body s.invoked) := by
  obtain ⟨hinit, hlen, hrange, hnew⟩ := hjob
  rw [State.invoke_of_callable hs hp, State.checkJob_of (s := { s with ret := none }) hinit hlen hrange hnew hbuffer]
  rfl

theorem State.bufferOk_of_some {s : State} {src len : Word} (h : s.bufferOk src len) :
    ∀ q, some src = some q → s.bufferOk q len := fun _ hq => Option.some.inj hq ▸ h

/-- The routine that the pages of a transfer need (44_quick_writes_wait.md R289). -/
def routineFor : Option Word → Routine
  | some _ => .write
  | none => .erase

theorem requiredRoutine_loadTransfer (dst len : Word) (src : Option Word) (s : State) :
    requiredRoutine (s.loadTransfer dst len src).srckind = routineFor src := by
  cases src <;> rfl

/-- An accepted and legal transfer, its registers just loaded. -/
theorem State.loadTransfer_mayPage {s : State} {dst len : Word} {src : Option Word} (hs : s.callable)
    (hpar : s.par.wf = true) (hjob : s.accepts dst len) (hbuffer : ∀ q, src = some q → s.bufferOk q len)
    (hstage : Mem.wf s.stage) (hnv : Mem.wf s.nv) (hlegal : s.transferLegal (routineFor src) dst len) :
    (s.loadTransfer dst len src).MayPage := by
  obtain ⟨hidle, honline, hwords, hroutine⟩ := hlegal
  obtain ⟨-, -, hrange, -⟩ := hjob
  refine ⟨hs.1, hidle, honline, ?_, hwords, hrange, Params.wf_staging hpar, fun hk => ?_, hstage, hnv⟩
  · unfold State.routineMissing
    rw [requiredRoutine_loadTransfer]
    cases hl : s.par.loadOnStart with
    | true => simp [State.loadTransfer, hl, hroutine hl]
    | false => simp [State.loadTransfer, hl]
  · cases src with
    | some q => exact (hbuffer q rfl).2.1
    | none => cases hk

/-! Synchronous transfers. -/

theorem State.startSync_ready {s : State} (hready : s.mode ≠ .offline) (op : Byte) (dst len : Word) (src : Option Word) :
    s.startSync op dst len src = (s.loadTransfer dst len src).writeLoop op len :=
  if_pos (s.ready_iff.mpr hready)

/-- WRITE.S or ERASE.S of an accepted and legal request, from its invocation to its return. -/
theorem State.invoke_startSync_transfers {s : State} {op : Byte} {dst len : Word} {src : Option Word} {d : FcDraw}
    {rest : List Input} (hs : s.callable) (hpar : s.par.wf = true) (hop : opPresent s.par op = true)
    (hjob : s.accepts dst len) (hbuffer : ∀ q, src = some q → s.bufferOk q len) (hstage : Mem.wf s.stage)
    (hnv : Mem.wf s.nv) (hlegal : s.transferLegal (routineFor src) dst len) (hd : d.clean = true)
    (hin : s.inputs = (List.replicate (pageCount dst len) [Input.fcComplete d, Input.seqStep]).flatten ++ rest) :
    ∃ u t, s.invoke op (fun t => t.whenJob op (some 0) (t.checkJob dst len src) (State.startSync op dst len src)) =
        .next u ∧
      u.WaitsFor (fun v => v.pos = .waiting op (.page len)) (pageCount dst len) t ∧
      t = { s with
        coll := false, accerr := false, pviol := false, cstat := false, stage := t.stage, nv := t.nv
        qdirty := t.qdirty, dst := dst + len, src := (s.loadTransfer dst len src).src + len
        srckind := (s.loadTransfer dst len src).srckind, rem := 0#32, tmo := s.par.timeout.getD s.tmo
        ret := some ⟨.ok, some len.toNat⟩, inputs := rest } ∧
      s.holdsPages t dst.toNat len.toNat (s.loadTransfer dst len src).pageValue := by
  have hmay : (s.invoked.loadTransfer dst len src).MayPage :=
    State.loadTransfer_mayPage (s := s.invoked) hs hpar hjob hbuffer hstage hnv hlegal
  obtain ⟨hidle, honline, -, -⟩ := hlegal
  have hinvoke : s.invoke op (fun t => t.whenJob op (some 0) (t.checkJob dst len src) (State.startSync op dst len src)) =
      .next ((s.invoked.loadTransfer dst len src).writeLoop op len) := by
    rw [State.invoke_accepted hs hop hjob hbuffer, State.startSync_ready (s := s.invoked) honline]
  obtain ⟨-, hlen, -, -⟩ := hjob
  obtain ⟨t, hwaits, hissued, ht, hpages⟩ :=
    (writeLoop_carriesOn hd op len s.issued).transfers (by rfl) hmay hlen rfl hin
  have hend : t.writeLoop op len = t.finish .ok (some len.toNat) := if_pos (congrArg State.rem ht)
  refine ⟨_, _, hinvoke, hwaits, ?_, ?_⟩
  all_goals rw [hend]
  · refine (congrArg (State.finish .ok (some len.toNat)) ht).trans ?_
    simp [State.invoked, State.finish, State.loadTransfer, hissued, hs.2, hidle]
  · exact hpages

/-- Settles O43: WRITE.S loads its registers, its loop carries the transfer through all its pages, and it returns. -/
theorem syncWriteLaw : Obligations.SyncWriteLaw := by
  intro s dst src len d rest hs hpar hsync hjob hbuffer hstage hnv hlegal hd hin
  obtain ⟨u, t, hexec, ⟨hrun, hwaits⟩, ht, hpages⟩ := State.invoke_startSync_transfers (op := 0x02#8) hs hpar
    (by simp [opPresent, hsync]) hjob (State.bufferOk_of_some hbuffer) hstage hnv hlegal hd hin
  exact ⟨u, t, hexec, hrun, hwaits, ht, hpages⟩

/-! Asynchronous transfers. -/

/-- The registers of an asynchronous transfer loaded, the transfer PENDING (41_write_paths.md R170, R181). -/
def State.beginAsync (dst len : Word) (src : Option Word) (s : State) : State :=
  { s.loadTransfer dst len src with issued := false, result := .pending }.reloadTmo

theorem State.startAsync_ready {s : State} (hready : s.mode ≠ .offline) (op : Byte) (dst len : Word) (src : Option Word) :
    s.startAsync op dst len src = (s.beginAsync dst len src).asyncStep op :=
  if_pos (s.ready_iff.mpr hready)

/-- The operation that carries a transfer on shows only in the event of a timeout, so not with CC = 1. -/
theorem State.asyncStep_idle {s : State} (hidle : s.inflight = .none) (op op' : Byte) :
    s.asyncStep op = s.asyncStep op' := by
  have hb : ¬ s.busy = true := by rw [s.busy_iff]; exact not_not_intro hidle
  unfold State.asyncStep
  rw [if_neg hb, if_neg hb]

/-- A POLL carries the transfer on, and finds no error flag of an unchecked page (41_write_paths.md R171, R172). -/
structure State.Polls (s : State) : Prop where
  async : s.par.async = true
  initDone : s.initDone = true
  idle : s.pos = .idle
  pending : s.result = .pending
  clean : (s.issued && s.inError) = false

/-- One invocation with a page left: the page is issued, and WRITE_REQUESTED returned (41_write_paths.md R172). -/
theorem State.MayPage.asyncStep {s : State} (h : s.MayPage) (hrem : s.rem ≠ 0#32)
    (hclean : (s.issued && s.inError) = false) (op : Byte) :
    s.asyncStep op =
      ({ s.issueNextPage.advance s.nextPage with issued := true }.reloadTmo).finish .writeRequested (some s.nextPage) := by
  have hb : ¬ s.busy = true := by rw [s.busy_iff]; exact not_not_intro h.idle
  have hchecked : State.MayPage { s with issued := false } := { h with }
  have hissue : State.issuePage s.dst (State.pageBytes s.nextPage { s with issued := false }) { s with issued := false } =
      State.issueNextPage { s with issued := false } := hchecked.issuePage hrem
  rw [State.asyncStep, if_neg hb, if_neg (by simp [hclean]), if_neg hrem, State.asyncIssue]
  refine (congrArg (fun u : State => u.ifSound _) hissue).trans ?_
  exact State.ifSound_of_sound (s := State.issueNextPage { s with issued := false }) h.sound _

theorem decode_encode_poll (p q : Params) : decode p (encode q .poll) = .ok .poll := rfl

/-- The step that takes a POLL of a PENDING transfer. -/
theorem step_invokes_poll {s : State} {p : Params} {rest : List Input} (hf : s.fault = none)
    (hin : s.inputs = .issue (encode p .poll) :: rest) (h : s.Polls) :
    step s = .next (State.asyncStep 0x06#8 { s with ret := none, inputs := rest }) := by
  have hresult : State.pollResult { s with ret := none, inputs := rest } =
      State.asyncStep 0x06#8 { s with ret := none, inputs := rest } := by
    rw [State.pollResult, h.pending]
  have hinvoke : exec .poll { s with inputs := rest } = _ :=
    State.invoke_of_callable (s := { s with inputs := rest }) (op := 0x06#8) ⟨hf, h.idle⟩ h.async _
  rw [step_of_issue hf hin (decode_encode_poll _ p), hinvoke,
    State.whenInit_of_init (s := { s with ret := none, inputs := rest }) h.initDone, hresult]

/-- WRITE.A and ERASE.A: the POLL after the completion carries on. -/
theorem asyncStep_carriesOn {d : FcDraw} (hd : d.clean = true) (p : Params) :
    CarriesOn d (.issue (encode p .poll)) (State.asyncStep 0x06#8) (fun v => v.result = .pending) State.Polls := by
  intro u rest hctx hu hrem hin
  rw [hu.asyncStep hrem hctx.clean]
  refine ⟨hctx.pending, nofun, _, _, step_completes_page hd (by exact hu.sound) hin rfl, hctx.pending, rfl,
    step_invokes_poll (by exact hu.sound) rfl ?_, ?_, .idle, none, true, rfl⟩
  all_goals exact ⟨hctx.async, hctx.initDone, rfl, hctx.pending, rfl⟩

/-- The last POLL of a transfer that is through all its pages. -/
theorem State.TransfersTo.poll {rest : List Input} {s t : State} (h : s.TransfersTo rest t) (hp : t.Polls) :
    t.asyncStep 0x06#8 = { s with
      coll := false, accerr := false, pviol := false, cstat := false, inflight := .none
      stage := t.stage, nv := t.nv, qdirty := t.qdirty
      dst := s.dst + s.rem, src := s.src + s.rem, rem := 0#32, tmo := s.par.timeout.getD s.tmo
      result := .ok, issued := false, pos := .idle, ret := some ⟨.ok, some 0⟩, inputs := rest } := by
  obtain ⟨ht, -⟩ := h
  have hidle : t.inflight = .none := congrArg State.inflight ht
  have hb : ¬ t.busy = true := by rw [t.busy_iff]; exact not_not_intro hidle
  have hrem : t.rem = 0#32 := congrArg State.rem ht
  rw [State.asyncStep, if_neg hb, if_neg (by simp [hp.clean]), if_pos hrem]
  exact congrArg (fun u : State => State.finish .ok (some 0) { u with issued := false, result := .ok }) ht

/-- WRITE.A or ERASE.A of an accepted and legal request, from its invocation to its last POLL. -/
theorem State.invoke_startAsync_transfers {s : State} {op : Byte} {dst len : Word} {src : Option Word} {d : FcDraw}
    {rest : List Input} (hs : s.callable) (hpar : s.par.wf = true) (hasync : s.par.async = true)
    (hop : opPresent s.par op = true) (hjob : s.accepts dst len) (hbuffer : ∀ q, src = some q → s.bufferOk q len)
    (hstage : Mem.wf s.stage) (hnv : Mem.wf s.nv) (hlegal : s.transferLegal (routineFor src) dst len)
    (hd : d.clean = true)
    (hin : s.inputs =
      (List.replicate (pageCount dst len) [Input.fcComplete d, Input.issue (encode s.par .poll)]).flatten ++ rest) :
    ∃ u t, s.invoke op (fun t => t.whenJob op (some 0) (t.checkJob dst len src) (State.startAsync op dst len src)) =
        .next u ∧
      u.WaitsFor (fun v => v.result = .pending) (pageCount dst len) t ∧
      t = { s with
        coll := false, accerr := false, pviol := false, cstat := false, stage := t.stage, nv := t.nv
        qdirty := t.qdirty, dst := dst + len, src := (s.loadTransfer dst len src).src + len
        srckind := (s.loadTransfer dst len src).srckind, rem := 0#32, tmo := s.par.timeout.getD s.tmo
        result := .ok, issued := false, ret := some ⟨.ok, some 0⟩, inputs := rest } ∧
      s.holdsPages t dst.toNat len.toNat (s.loadTransfer dst len src).pageValue := by
  have hloaded : (s.invoked.loadTransfer dst len src).MayPage :=
    State.loadTransfer_mayPage (s := s.invoked) hs hpar hjob hbuffer hstage hnv hlegal
  have hmay : (s.invoked.beginAsync dst len src).MayPage := { hloaded with }
  obtain ⟨hidle, honline, -, -⟩ := hlegal
  have hinvoke : s.invoke op (fun t => t.whenJob op (some 0) (t.checkJob dst len src) (State.startAsync op dst len src)) =
      .next ((s.invoked.beginAsync dst len src).asyncStep 0x06#8) := by
    rw [State.invoke_accepted hs hop hjob hbuffer, State.startAsync_ready (s := s.invoked) honline,
      State.asyncStep_idle (s := s.invoked.beginAsync dst len src) hidle op 0x06#8]
  obtain ⟨hinit, hlen, -, -⟩ := hjob
  have hpolls : (s.invoked.beginAsync dst len src).Polls := ⟨hasync, hinit, hs.2, rfl, rfl⟩
  obtain ⟨t, hwaits, ht, hall⟩ := (asyncStep_carriesOn hd s.par).transfers hpolls hmay hlen rfl hin
  refine ⟨_, _, hinvoke, hwaits, ?_, ?_⟩
  all_goals rw [hall.poll ht]
  · simp [State.invoked, State.beginAsync, State.reloadTmo, State.loadTransfer, getD_getD_self, hs.2, hidle]
  · exact hall.2

/-- Settles O49: each of the two carries its transfer through all its pages, poll by poll, and the last POLL gives OK. -/
theorem asyncTransferLaw : Obligations.AsyncTransferLaw := by
  intro s dst src len d rest hs hpar hasync hjob hstage hnv hd hin done
  refine ⟨fun hbuffer hlegal => ?write, fun hlegal => ?erase⟩
  case write =>
    obtain ⟨u, t, hexec, ⟨hrun, hwaits⟩, ht, hpages⟩ := State.invoke_startAsync_transfers (op := 0x03#8) hs hpar hasync
      hasync hjob (State.bufferOk_of_some hbuffer) hstage hnv hlegal hd hin
    have hsrc : t.src = src + len := congrArg State.src ht
    refine ⟨u, t, hexec, hrun, hwaits, ?_, hsrc, hpages⟩
    simp only [done, hsrc]
    exact ht
  case erase =>
    obtain ⟨u, t, hexec, ⟨hrun, hwaits⟩, ht, hpages⟩ := State.invoke_startAsync_transfers (op := 0x05#8) (src := none) hs
      hpar hasync hasync hjob (nofun) hstage hnv hlegal hd hin
    have hsrc : t.src = s.src + len := congrArg State.src ht
    refine ⟨u, t, hexec, hrun, hwaits, ?_, hpages⟩
    simp only [done, hsrc]
    exact ht

end Sys2Proof.Machine
end

section
/-! SUPPORT. The fields of a descriptor and of a command word: a form is what its fields say, and nothing else. -/

namespace Sys2Proof.Laws

/-! Format OPD (30_encoding.md R95). -/

theorem opdA_opdWord (op : Byte) (a b c : Word) (h : Half) : opdA (opdWord op a b c h) = a := by
  simp (disch := decide) only [opdA, opdWord, BitVec.extractLsb'_cast, BitVec.extractLsb'_append_eq_of_le]
  exact BitVec.extractLsb'_append_eq_right

theorem opdB_opdWord (op : Byte) (a b c : Word) (h : Half) : opdB (opdWord op a b c h) = b := by
  simp (disch := decide) only [opdB, opdWord, BitVec.extractLsb'_cast, BitVec.extractLsb'_append_eq_of_le]
  exact BitVec.extractLsb'_append_eq_right

theorem opdC_opdWord (op : Byte) (a b c : Word) (h : Half) : opdC (opdWord op a b c h) = c := by
  simp (disch := decide) only [opdC, opdWord, BitVec.extractLsb'_cast, BitVec.extractLsb'_append_eq_of_le]
  exact BitVec.extractLsb'_append_eq_right

theorem opdW_opdWord (op : Byte) (a b c : Word) (h : Half) : opdW (opdWord op a b c h) = h := by
  simp (disch := decide) only [opdW, opdWord, BitVec.extractLsb'_cast, BitVec.extractLsb'_append_eq_of_le]
  exact BitVec.extractLsb'_append_eq_right

/-- The fields cover the descriptor: with bits 127:120 zero it is made of the other five. -/
theorem opdWord_fields {w : Descriptor} (htop : opdTop w = 0#8) :
    opdWord (opdOp w) (opdA w) (opdB w) (opdC w) (opdW w) = w := by
  rw [opdWord, ← htop]
  simp (disch := decide) only [opdTop, opdW, opdC, opdB, opdA, opdOp,
    BitVec.extractLsb'_append_extractLsb'_eq_extractLsb']
  exact BitVec.extractLsb'_eq_self

theorem opdWord_eq_iff {w : Descriptor} {op : Byte} {a b c : Word} {h : Half} :
    opdWord op a b c h = w ↔
      opdOp w = op ∧ opdTop w = 0#8 ∧ opdA w = a ∧ opdB w = b ∧ opdC w = c ∧ opdW w = h := by
  constructor
  · rintro rfl
    exact ⟨opdOp_opdWord .., opdTop_opdWord .., opdA_opdWord .., opdB_opdWord .., opdC_opdWord .., opdW_opdWord ..⟩
  · rintro ⟨rfl, htop, rfl, rfl, rfl, rfl⟩
    exact opdWord_fields htop

/-! An operand narrower than its field (30_encoding.md R96). -/

theorem low_setWidth {n k : Nat} (h : n ≤ k) (x : BitVec n) : (x.setWidth k).extractLsb' 0 n = x := by
  rw [BitVec.extractLsb'_setWidth_of_le (by omega), BitVec.extractLsb'_eq_self]

theorem high_setWidth {n : Nat} (k m : Nat) (x : BitVec n) : (x.setWidth k).extractLsb' n m = 0#m := by
  ext i hi
  simp

/-- A field is its low bits extended exactly when the bits above them are zero. -/
theorem eq_setWidth_low_iff {n m : Nat} {x : BitVec (m + n)} :
    x = (x.extractLsb' 0 n).setWidth (m + n) ↔ x.extractLsb' n m = 0#m := by
  constructor
  · intro h
    rw [h, high_setWidth]
  · intro hhigh
    calc x = 0#m ++ x.extractLsb' 0 n := by rw [← hhigh, BitVec.extractLsb'_append_extractLsb']
      _ = (x.extractLsb' 0 n).setWidth (m + n) := by
        ext i hi
        simp [BitVec.getElem_append]

theorem eq_byteOperand_iff {a : Word} : a = (a.extractLsb' 0 8).setWidth 32 ↔ a.extractLsb' 8 24 = 0#24 :=
  eq_setWidth_low_iff (n := 8) (m := 24)

theorem eq_halfOperand_iff {a : Word} : a = (a.extractLsb' 0 16).setWidth 32 ↔ a.extractLsb' 16 16 = 0#16 :=
  eq_setWidth_low_iff (n := 16) (m := 16)

/-! Format CMDW (30_encoding.md R91). -/

theorem fc_cmdWord (p : Params) (c : Command) (len : Half) : (cmdWord p c len).extractLsb' 16 8 = c.code p := by
  simp (disch := decide) only [cmdWord, BitVec.extractLsb'_cast, BitVec.extractLsb'_append_eq_of_le]
  exact BitVec.extractLsb'_append_eq_right

theorem len_cmdWord (p : Params) (c : Command) (len : Half) : (cmdWord p c len).extractLsb' 0 16 = len := by
  rw [cmdWord, BitVec.extractLsb'_cast]
  exact BitVec.extractLsb'_append_eq_right

theorem cmdWord_fields {p : Params} {c : Command} {w : Word} (hcmd : w.extractLsb' 24 8 = p.cmdSetfr)
    (hfc : w.extractLsb' 16 8 = c.code p) : cmdWord p c (w.extractLsb' 0 16) = w := by
  rw [cmdWord, ← hcmd, ← hfc]
  simp (disch := decide) only [BitVec.extractLsb'_append_extractLsb'_eq_extractLsb']
  exact BitVec.extractLsb'_eq_self

/-- LEN zero is any command word with its low half cleared (40_dispatch_polling.md R129). -/
theorem cmdWord_zero (p : Params) (c : Command) (len : Half) : cmdWord p c 0#16 = cmdWord p c len &&& 0xFFFF0000#32 := by
  have hclear : (p.cmdSetfr ++ c.code p ++ len) &&& (BitVec.allOnes 16 ++ 0#16) = p.cmdSetfr ++ c.code p ++ 0#16 := by
    rw [BitVec.and_append, BitVec.and_zero]
    exact congrArg (· ++ 0#16) BitVec.and_allOnes
  exact hclear.symm

end Sys2Proof.Laws
end

section
/-! SUPPORT. Decoding and encoding undo each other: everything a descriptor and a command word can decode to, once, and
with it the statements about the three formats. -/

namespace Sys2Proof.Machine

open Sys2Proof.Laws

/-! Format OPD (30_encoding.md R95, R96, R98). -/

theorem whenZero_eq_ok {op : Byte} {unused : Bool} {i j : Instr} :
    whenZero op unused i = .ok j ↔ unused = true ∧ i = j := by
  cases unused <;> simp [whenZero]

/-- Everything the decoder makes of a descriptor: an OP outside the map, or a row of the table, which asks that the unused
bits are zero and then is the row the descriptor encodes. -/
theorem decodeOpd_cases (w : Descriptor) :
    ((opdOp w).toNat = 0 ∨ 0x14 < (opdOp w).toNat) ∧ decodeOpd w = .error (.opReserved (opdOp w)) ∨
    ¬ ((opdOp w).toNat = 0 ∨ 0x14 < (opdOp w).toNat) ∧
      ∃ unused i, decodeOpd w = whenZero (opdOp w) unused i ∧ opcodeOf i = some (opdOp w) ∧
        (unused = true → ∀ p, encode p i = .opd w) := by
  unfold decodeOpd
  dsimp only
  split
  case h_21 => exact .inl ⟨by grind, rfl⟩
  all_goals
    next hop =>
    refine .inr ⟨by omega, _, _, rfl, congrArg some (BitVec.eq_of_toNat_eq hop).symm, fun hunused p => ?_⟩
    refine congrArg IssueWord.opd (opdWord_eq_iff.mpr ⟨BitVec.eq_of_toNat_eq hop, ?_⟩)
    simp only [Bool.and_eq_true, beq_iff_eq] at hunused
    simp only [hunused, eq_byteOperand_iff, eq_halfOperand_iff, and_self]

theorem encode_of_decodeOpd (p : Params) {w : Descriptor} {i : Instr} (h : decodeOpd w = .ok i) : encode p i = .opd w := by
  obtain ⟨-, hdec⟩ | ⟨-, unused, j, hdec, -, henc⟩ := decodeOpd_cases w
  · cases hdec.symm.trans h
  · obtain ⟨hunused, rfl⟩ := whenZero_eq_ok.mp (hdec.symm.trans h)
    exact henc hunused p

/-- The operations: every operand stands in a field of its own, and the unused bits are zero. -/
theorem decode_encode_of_opcode (p : Params) {i : Instr} {op : Byte} (hop : opcodeOf i = some op) :
    decode p (encode p i) = .ok i := by
  cases i with
  | setEee | setQuick | query | complete | page1 | page4 => cases hop
  | _ =>
    simp [encode, decode, decodeOpd, whenZero, opdOp_opdWord, opdTop_opdWord, opdA_opdWord, opdB_opdWord, opdC_opdWord,
      opdW_opdWord, low_setWidth, high_setWidth]

/-! Format CMDW (30_encoding.md R91, R92, R103). -/

theorem code_of_commandOf {p : Params} {fc : Byte} {c : Command} (h : commandOf p fc = some c) : fc = c.code p := by
  unfold commandOf at h
  split_ifs at h with heee hquick hquery hcomplete
  · cases h; exact heee
  · cases h; exact hquick
  · cases h; exact hquery
  · cases h; exact hcomplete

theorem decodeCmdw_eq_ok_iff {p : Params} {w : Word} {i : Instr} :
    decodeCmdw p w = .ok i ↔ w.extractLsb' 24 8 = p.cmdSetfr ∧
      ∃ c, commandOf p (w.extractLsb' 16 8) = some c ∧ commandInstr (w.extractLsb' 0 16) c = i := by
  unfold decodeCmdw
  by_cases hcmd : w.extractLsb' 24 8 = p.cmdSetfr
  · cases commandOf p (w.extractLsb' 16 8) with
    | none => simp
    | some c => cases c <;> simp [hcmd, commandInstr]
  · simp [hcmd]

theorem decodeCmdw_reserved {p : Params} {w : Word} (h : w.extractLsb' 24 8 ≠ p.cmdSetfr ∨
    w.extractLsb' 16 8 ∉ [p.fcEee, p.fcQuick, p.fcQuery, p.fcComplete]) : decodeCmdw p w = .error .cmdReserved := by
  unfold decodeCmdw
  split
  · next hcmd => rw [commandOf_none (h.resolve_left (not_not_intro hcmd))]
  · rfl

theorem decodeCmdw_cmdWord {p : Params} (hp : [p.fcEee, p.fcQuick, p.fcQuery, p.fcComplete].Nodup) (c : Command)
    (len : Half) : decodeCmdw p (cmdWord p c len) = .ok (commandInstr len c) := by
  refine decodeCmdw_eq_ok_iff.mpr ⟨cmd_cmdWord p c len, c, ?_, ?_⟩
  · rw [fc_cmdWord, commandOf_code hp]
  · rw [len_cmdWord]

theorem encode_commandInstr (p : Params) (len : Half) (c : Command) :
    encode p (commandInstr len c) = .cmdw (cmdWord p c (if c = .setQuick then len else 0#16)) := by
  cases c <;> rfl

theorem encode_of_decodeCmdw {p : Params} (hp : [p.fcEee, p.fcQuick, p.fcQuery, p.fcComplete].Nodup) {w : Word} {i : Instr}
    (h : decodeCmdw p w = .ok i) :
    encode p i = .cmdw (if w.extractLsb' 16 8 = p.fcQuick then w else w &&& 0xFFFF0000#32) := by
  obtain ⟨hcmd, c, hc, rfl⟩ := decodeCmdw_eq_ok_iff.mp h
  have hfc := code_of_commandOf hc
  have hword := cmdWord_fields hcmd hfc
  have hquick : w.extractLsb' 16 8 = p.fcQuick ↔ c = .setQuick := hfc ▸ code_eq_quick hp c
  rw [encode_commandInstr]
  by_cases hset : c = .setQuick
  · rw [if_pos hset, if_pos (hquick.mpr hset), hword]
  · rw [if_neg hset, if_neg (mt hquick.mp hset), cmdWord_zero p c (w.extractLsb' 0 16), hword]

/-! Format EEEW (30_encoding.md R94). -/

theorem encode_of_decodeEeew (p : Params) {a : Word} {data : List Byte} {i : Instr} (h : decodeEeew a data = .ok i) :
    encode p i = .eeew a data := by
  unfold decodeEeew at h
  split at h
  · cases h; rfl
  · cases h; rfl
  · cases h

theorem decodeEeew_storeSize (a : Word) {data : List Byte} (hone : data.length ≠ 1) (hfour : data.length ≠ 4) :
    decodeEeew a data = .error .storeSize := by
  unfold decodeEeew
  split
  · exact absurd rfl hone
  · exact absurd rfl hfour
  · rfl

/-! The three formats together. -/

/-- Settles O1: the operations by the fields of a descriptor, the commands by their codes, the pages by their size. -/
theorem decodeOfEncode : Obligations.DecodeOfEncode := by
  intro p i hp
  cases i with
  | setEee => exact decodeCmdw_cmdWord hp .setEee 0#16
  | setQuick w => exact decodeCmdw_cmdWord hp .setQuick w
  | query => exact decodeCmdw_cmdWord hp .query 0#16
  | complete => exact decodeCmdw_cmdWord hp .complete 0#16
  | page1 | page4 => rfl
  | _ => exact decode_encode_of_opcode p rfl

/-- Settles O2: format by format. -/
theorem encodeOfDecode : Obligations.EncodeOfDecode := fun p _ hp =>
  ⟨fun _ => encode_of_decodeOpd p, fun _ _ => encode_of_decodeEeew p, fun _ => encode_of_decodeCmdw hp⟩

/-- Settles O3: the seven words are evaluated. -/
theorem sampleWordsDecode : Obligations.SampleWordsDecode := by
  unfold Obligations.SampleWordsDecode
  decide

end Sys2Proof.Machine
end

section
/-! SUPPORT. What a presented form does in a step: the instruction it decodes to runs, and one that is none raises its
fault. -/

namespace Sys2Proof.Machine

/-- A form that decodes to nothing, presented while no operation runs (30_encoding.md R98). -/
theorem step_of_undecodable {s : State} {w : IssueWord} {e : DecodeError} {rest : List Input} (hs : s.callable)
    (hin : s.inputs = .issue w :: rest) (hdec : decode s.par w = .error e) :
    step s = .next { s with inputs := rest, fault := some (s.decodeFault e) } := by
  have hact : s.nextAction = State.present w { s with inputs := rest } := by rw [State.nextAction, hs.1, hin]
  rw [step_of_other (hact.trans (State.present_of_error (s := { s with inputs := rest }) hdec)), if_pos hs.2]
  rfl

/-! Operations outside the build (30_encoding.md R95, "present when"). -/

theorem opPresent_eq_false_iff (p : Params) (op : Byte) :
    opPresent p op = false ↔
      (op.toNat = 0x02 ∨ op.toNat = 0x04) ∧ p.async = true ∨
      (op.toNat = 0x03 ∨ op.toNat = 0x05 ∨ op.toNat = 0x06) ∧ p.async = false ∨
      (op.toNat = 0x09 ∨ op.toNat = 0x0A ∨ op.toNat = 0x0B) ∧ p.quick = false ∨
      op.toNat = 0x0C ∧ p.cancel = false ∨
      (op.toNat = 0x0D ∨ op.toNat = 0x0E) ∧ p.loadOnStart = false := by
  unfold opPresent
  split <;> simp_all

theorem State.invoke_of_absent {s : State} {op : Byte} (hs : s.callable) (hp : opPresent s.par op = false)
    (body : State → State) : s.invoke op body = .next (s.raise .opNotConfigured) := by
  simp [State.invoke, hs.1, hs.2, hp]

/-- An operation with a flag is invoked under its own OP, so that the flag is looked at before anything else. The others are
in every build. -/
theorem exec_of_absent {i : Instr} {s : State} {op : Byte} (hop : opcodeOf i = some op) (hs : s.callable)
    (hp : opPresent s.par op = false) : exec i s = .next (s.raise .opNotConfigured) := by
  cases i with
  | setEee | setQuick | query | complete | page1 | page4 => cases hop
  | init | read | compare | dispatch | crcReset | crcFold8 | crcFold16 | crcFinalize | crcCheckCfg =>
    cases hop
    cases hp
  | writeS | writeA | eraseS | eraseA | poll | quickCheck | quickEnter | quickExit | waitReady | routineLoad
    | routineUnload =>
    cases hop
    exact State.invoke_of_absent hs hp _

/-- Settles O4: along the decoder's cases; an absent operation faults alike whether its operands decode or not. -/
theorem illegalDescriptorsFault : Obligations.IllegalDescriptorsFault := by
  intro s w rest hs hin op
  obtain ⟨hout, hdec⟩ | ⟨hmapped, unused, i, hdec, hcode, henc⟩ := decodeOpd_cases w
  · rw [if_pos hout]
    exact step_of_undecodable hs hin hdec
  rw [if_neg hmapped]
  have hfault : s.decodeFault (.operandReserved (opdOp w)) =
    if opPresent s.par (opdOp w) then .operandReserved else .opNotConfigured := rfl
  by_cases habsent : opPresent s.par (opdOp w) = false
  · rw [if_pos ((opPresent_eq_false_iff _ _).mp habsent)]
    cases unused with
    | false => rw [step_of_undecodable hs hin hdec, hfault, habsent]; rfl
    | true => exact (step_of_issue hs.1 hin hdec).trans (exec_of_absent (s := { s with inputs := rest }) hcode hs habsent)
  · rw [if_neg (mt (opPresent_eq_false_iff _ _).mpr habsent)]
    intro hnone
    cases unused with
    | false => rw [step_of_undecodable hs hin hdec, hfault, if_pos (by simpa using habsent)]
    | true => exact absurd (henc rfl s.par) (hnone i)

/-- Settles O5: neither form decodes, whatever the state. -/
theorem illegalStoresAndCommandsFault : Obligations.IllegalStoresAndCommandsFault := by
  intro s rest hs
  refine ⟨fun a data hin hone hfour => ?_, fun w hin hidle hreserved => ?_⟩
  · exact step_of_undecodable hs hin (decodeEeew_storeSize a hone hfour)
  · have hbusy : ¬ s.busy = true := by rw [s.busy_iff]; exact not_not_intro hidle
    rw [step_of_undecodable hs hin (decodeCmdw_reserved hreserved), State.decodeFault, if_neg hbusy]

/-- Settles O6. -/
theorem stepRunsDecoded : Obligations.StepRunsDecoded := fun _ _ _ _ hf hin hdec => step_of_issue hf hin hdec

end Sys2Proof.Machine
end

section
/-! SUPPORT. What DISPATCH and the command words launch, and the fault each stops with (40_dispatch_polling.md R122, R126 to
R129, R140 to R144). -/

namespace Sys2Proof.Machine

theorem State.w1c_eq (s : State) : s.w1c = { s with coll := false, accerr := false, pviol := false } := by
  simp [State.w1c, State.clearFlags, clrMask]

/-! DISPATCH (40_dispatch_polling.md R122). -/

theorem State.dispatchCommand_busy {s : State} (hb : s.busy = true) (op : Byte) (w : WaitPoint) (fcode : Byte)
    (len : Half) : s.dispatchCommand op w fcode len = s.raise .launchWhileBusy := if_pos hb

/-- DISPATCH of a code that is none of the four while idle: the flags are cleared and the slots written before the fault. -/
theorem State.dispatchCommand_reserved {s : State} (h : s.par.wf = true) (hb : s.busy = false) {fcode : Byte}
    (hf : fcode ∉ [s.par.fcEee, s.par.fcQuick, s.par.fcQuery, s.par.fcComplete]) (op : Byte) (w : WaitPoint)
    (len : Half) :
    s.dispatchCommand op w fcode len = State.raise .cmdReserved { s.w1c with cmdparam := s.slotsFor fcode len } := by
  rw [State.dispatchCommand, if_neg (by simp [hb]), State.issueCommand_reserved (s := s.w1c) h hb hf,
    State.ifSound_raise]
  rfl

theorem exec_dispatch_of_init {s : State} (hs : s.callable) (hinit : s.initDone = true) (fcode : Byte) (len : Half) :
    exec (.dispatch fcode len) s = .next (s.invoked.dispatchCommand 0x0F#8 .dispatched fcode len) := by
  have hinvoke : exec (.dispatch fcode len) s = _ := State.invoke_of_callable (op := 0x0F#8) hs rfl _
  rw [hinvoke, State.whenInit_of_init (s := { s with ret := none }) hinit]
  rfl

/-- Settles O32: DISPATCH runs at once, and each branch of its launch gives the whole state. -/
theorem dispatchLaunches : Obligations.DispatchLaunches := by
  intro s fcode len hs hwf hinit
  rw [exec_dispatch_of_init hs hinit]
  refine ⟨fun hbusy => ?busy, fun hidle hreserved => ?reserved, fun c hidle hcode => ?command⟩
  case busy =>
    rw [State.dispatchCommand_busy (s := s.invoked) (s.busy_iff.mpr hbusy)]
    rfl
  case reserved =>
    rw [State.dispatchCommand_reserved (s := s.invoked) hwf (s.not_busy_iff.mpr hidle) hreserved, State.w1c_eq]
    rfl
  case command =>
    have hlaunch := State.dispatchCommand_command (s := s.invoked) hwf hs.1 (s.not_busy_iff.mpr hidle) 0x0F#8
      .dispatched c len
    rw [State.w1c_eq] at hlaunch
    subst hcode
    refine ⟨fun hlegal => ?_, fun hillegal => ?_⟩
    · rw [s.commandLegal_iff] at hlegal
      exact congrArg _ (hlaunch.trans (if_neg hlegal))
    · rw [s.commandLegal_iff, not_not] at hillegal
      exact congrArg _ (hlaunch.trans (if_pos hillegal))

/-! The command words by themselves (40_dispatch_polling.md R140 to R144). -/

/-- The length of a command that has none is not looked at (40_dispatch_polling.md R129). -/
theorem State.issueCommand_without_len {s : State} {fcode : Byte} (h : fcode ≠ s.par.fcQuick) (len len' : Half) :
    s.issueCommand fcode len = s.issueCommand fcode len' := by
  simp [State.issueCommand, State.writeCommand, h]

theorem exec_commandInstr {s : State} (hs : s.callable) (hwf : s.par.wf = true) (c : Command) (len : Half) :
    exec (commandInstr len c) s = .next (s.issueCommand (c.code s.par) len) := by
  have hquick := code_eq_quick (Params.wf_codes hwf) c
  have hlen (h : c ≠ .setQuick) : s.issueCommand (c.code s.par) 0#16 = s.issueCommand (c.code s.par) len :=
    State.issueCommand_without_len (mt hquick.mp h) _ _
  cases c with
  | setQuick => exact State.issueRaw_of_callable hs _
  | setEee | query | complete => exact (State.issueRaw_of_callable hs _).trans (congrArg _ (hlen nofun))

/-- Settles O33: the checks of a launch in their order. -/
theorem commandWordsLaunch : Obligations.CommandWordsLaunch := by
  intro s c len hs hwf
  rw [exec_commandInstr hs hwf]
  by_cases hbusy : s.inflight ≠ .none
  · rw [if_pos hbusy, State.issueCommand, if_pos (s.busy_iff.mpr hbusy)]
    rfl
  rw [if_neg hbusy, State.issueCommand_command hwf (s.not_busy_iff.mpr (not_not.mp hbusy))]
  by_cases herror : s.accerr = true ∨ s.pviol = true
  · rw [if_pos herror, if_pos (by simpa using herror)]
    rfl
  rw [if_neg herror, if_neg (by simpa using herror), s.commandLegal_iff]
  refine ⟨fun hlegal => ?_, fun hillegal => ?_⟩
  · rw [if_neg hlegal]
  · rw [if_pos (not_not.mp hillegal)]
    rfl

end Sys2Proof.Machine
end

section
/-! SUPPORT. The polls of a wait (40_dispatch_polling.md R136): what one leaves, how many the budget allows, and how the
operation ends when it has run out. -/

namespace Sys2Proof.Machine

/-! One poll. -/

theorem step_polls {s : State} {op : Byte} {w : WaitPoint} {rest : List Input} (hf : s.fault = none)
    (hpos : s.pos = .waiting op w) (hin : s.inputs = .seqStep :: rest) :
    step s = .next (State.pollIteration op w { s with inputs := rest }) := by
  rw [step_of_seqStep hf hin, State.sequencerStep, hpos]

theorem State.pollIteration_idle {s : State} (h : s.inflight = .none) (op : Byte) (w : WaitPoint) :
    s.pollIteration op w = s.afterWait op w false :=
  if_neg (by simp [s.busy_iff, h])

theorem State.flagCheck_eq (s : State) :
    s.flagCheck = if s.coll ∨ s.accerr ∨ s.pviol ∨ s.cstat then .failed else .ok := by
  simp [State.flagCheck, State.inError, or_assoc]

/-- Settles O34: the poll reads CC = 1, and the flags decide. -/
theorem dispatchReturnsByFlags : Obligations.DispatchReturnsByFlags := by
  intro s op rest hf hpos hin hidle
  rw [step_polls hf hpos hin, State.pollIteration_idle (s := { s with inputs := rest }) hidle, ← s.flagCheck_eq]
  rfl

/-! A poll that finds the controller busy. -/

/-- What `k` polls leave of the budget, if there is one. -/
def State.tmoAfter (k : Nat) (s : State) : Word :=
  if s.par.timeout = none then s.tmo else BitVec.ofNat 32 (s.tmo.toNat - k)

/-- The state after `k` polls that found the controller busy, with these inputs to come: each has called the callback, where
there is one, and taken one from the budget. -/
def State.polled (k : Nat) (rest : List Input) (s : State) : State :=
  { s with
    tmo := s.tmoAfter k, callbacks := s.callbacks + (if s.par.callback then k else 0), inputs := rest }

/-- The operation `op` has ended at this wait with its timeout outcome and one event (40_dispatch_polling.md R139); WAIT_READY
also cancels a PENDING transfer (44_quick_writes_wait.md R280). -/
def State.timedOut (op : Byte) (w : WaitPoint) (s : State) : State :=
  { s with
    pos := .idle, det := s.detWith op .timeout, ret := some (s.timeoutReturn w)
    issued := if w = .ready then false else s.issued
    result := if w = .ready ∧ s.result = .pending then .canceled else s.result }

theorem State.callCallback_eq (s : State) :
    s.callCallback = { s with callbacks := s.callbacks + (if s.par.callback then 1 else 0) } := by
  unfold State.callCallback
  split <;> rfl

theorem State.countDown_eq {s : State} (ht : s.par.timeout ≠ none) : s.countDown = { s with tmo := s.tmoAfter 1 } := by
  have htmo : s.countDown.tmo = s.tmoAfter 1 := by
    rw [State.countDown_tmo, State.tmoAfter, if_neg ht]
    split
    · simp_all
    · bv_omega
  rw [← htmo]
  rfl

theorem State.cancelTransfer_eq (s : State) :
    s.cancelTransfer = { s with
      issued := false
      result := if WaitPoint.ready = .ready ∧ s.result = .pending then .canceled else s.result } := by
  simp [State.cancelTransfer]

/-- A wait of any operation that expires, the controller still busy. -/
theorem State.afterWait_expired {s : State} (hb : s.busy = true) (op : Byte) (w : WaitPoint) :
    s.afterWait op w true = s.timedOut op w := by
  cases w with
  | dispatched | initOnline | initQuery | initMaint | initRecheck | quickFallback | quickExit | page => rfl
  | ready =>
    exact congrArg (fun u : State => (u.signalDet op .timeout).finish .timeout none) s.cancelTransfer_eq
  | quickEnter =>
    have hbusy : (s.signalDet op .timeout).busy = true := by rw [State.signalDet_busy, hb]
    exact (if_neg nofun : (s.signalDet op .timeout).afterQuickEnter .failed = _).trans (if_pos hbusy)

/-- A poll of a busy controller: the wait expires where the budget has at most one poll left, else it goes on. -/
theorem State.pollIteration_busy {s : State} (hb : s.busy = true) (op : Byte) (w : WaitPoint) :
    s.pollIteration op w =
      if s.par.timeout ≠ none ∧ s.tmo.toNat ≤ 1 then (s.polled 1 s.inputs).timedOut op w else s.polled 1 s.inputs := by
  rw [State.pollIteration, if_pos hb]
  cases ht : s.par.timeout with
  | none =>
    refine Eq.trans ?_ (if_neg fun h => h.1 rfl).symm
    rw [State.callCallback_eq, State.polled, State.tmoAfter, if_pos ht]
  | some n =>
    have hpolled : s.callCallback.countDown = s.polled 1 s.inputs := by
      rw [State.countDown_eq (by simp [ht]), State.callCallback_eq]
      rfl
    have hlast : s.callCallback.countDown.tmo = 0#32 ↔ s.tmo.toNat ≤ 1 := s.callCallback.countDown_eq_zero
    rw [hpolled] at hlast ⊢
    simp only [hlast, State.afterWait_expired (s := s.polled 1 s.inputs) hb, ne_eq, reduceCtorEq, not_false_eq_true,
      true_and]

/-- An operation waits while the controller is busy. -/
structure State.Awaits (op : Byte) (w : WaitPoint) (s : State) : Prop where
  sound : s.fault = none
  waiting : s.pos = .waiting op w
  busy : s.inflight ≠ .none

theorem State.Awaits.step_eq {op : Byte} {w : WaitPoint} {s : State} {rest : List Input} (h : s.Awaits op w)
    (hin : s.inputs = .seqStep :: rest) :
    step s = .next (if s.par.timeout ≠ none ∧ s.tmo.toNat ≤ 1 then (s.polled 1 rest).timedOut op w
      else s.polled 1 rest) := by
  rw [step_polls h.sound h.waiting hin,
    State.pollIteration_busy (s := { s with inputs := rest }) (s.busy_iff.mpr h.busy)]
  rfl

/-! Runs of polls. -/

theorem State.polled_zero (s : State) : s.polled 0 s.inputs = s := by simp [State.polled, State.tmoAfter]

theorem State.polled_polled (j k : Nat) (between rest : List Input) (s : State) :
    (s.polled j between).polled k rest = s.polled (j + k) rest := by
  have hcalls : (s.polled j between).callbacks + (if s.par.callback then k else 0) =
      s.callbacks + (if s.par.callback then j + k else 0) := by
    simp only [State.polled]
    split <;> omega
  have hbudget : (s.polled j between).tmoAfter k = s.tmoAfter (j + k) := by
    have hlt := s.tmo.isLt
    simp only [State.tmoAfter, State.polled]
    split
    · rfl
    · rw [BitVec.toNat_ofNat, Nat.mod_eq_of_lt (by omega), Nat.sub_sub]
  rw [State.polled, hbudget]
  exact congrArg (fun n : Nat => { s with tmo := s.tmoAfter (j + k), callbacks := n, inputs := rest }) hcalls

/-- A run is cut where it has come to a next state. -/
theorem run_add {M : Host.Core} {k : Nat} {s t : M.State} (h : M.run k s = .next t) (m : Nat) :
    M.run (k + m) s = M.run m t := by
  induction k generalizing s with
  | zero =>
    cases h
    rw [Nat.zero_add]
  | succ k ih =>
    rw [Nat.succ_add]
    rw [Host.Core.run] at h ⊢
    cases hstep : M.step s with
    | next u =>
      rw [hstep] at h
      exact ih h
    | fault r | refused r =>
      rw [hstep] at h
      cases h

theorem State.Awaits.polled {op : Byte} {w : WaitPoint} {s : State} (h : s.Awaits op w) (k : Nat) (rest : List Input) :
    (s.polled k rest).Awaits op w := ⟨h.sound, h.waiting, h.busy⟩

/-- Polls that leave something of the budget, one after the other. -/
theorem State.Awaits.run_polls {op : Byte} {w : WaitPoint} {k : Nat} {s : State} {rest : List Input} (h : s.Awaits op w)
    (hk : s.par.timeout ≠ none → k < max 1 s.tmo.toNat) (hin : s.inputs = List.replicate k Input.seqStep ++ rest) :
    Sys2Proof.core.run k s = .next (s.polled k rest) := by
  induction k generalizing s with
  | zero =>
    rw [← show s.inputs = rest from hin, State.polled_zero]
    rfl
  | succ k ih =>
    have hstep : step s = .next (s.polled 1 (List.replicate k Input.seqStep ++ rest)) :=
      (h.step_eq hin).trans (congrArg _ (if_neg fun ⟨ht, hlast⟩ => by have := hk ht; omega))
    have hrest : s.par.timeout ≠ none → k < max 1 (s.tmoAfter 1).toNat := by
      intro ht
      have hlt := s.tmo.isLt
      have hmore := hk ht
      rw [State.tmoAfter, if_neg ht, BitVec.toNat_ofNat, Nat.mod_eq_of_lt (by omega)]
      omega
    rw [Nat.add_comm k 1, ← State.polled_polled 1 k (List.replicate k Input.seqStep ++ rest), Nat.add_comm 1 k]
    exact (core_run_succ hstep k).trans (ih (h.polled 1 _) hrest rfl)

/-- The whole budget is polled away, and the operation ends at its last poll. -/
theorem State.Awaits.run_expires {op : Byte} {w : WaitPoint} {s : State} {rest : List Input} (h : s.Awaits op w)
    (ht : s.par.timeout ≠ none) (hin : s.inputs = List.replicate (max 1 s.tmo.toNat) Input.seqStep ++ rest) :
    Sys2Proof.core.run (max 1 s.tmo.toNat) s = .next ((s.polled (max 1 s.tmo.toNat) rest).timedOut op w) := by
  obtain ⟨k, hk⟩ : ∃ k, max 1 s.tmo.toNat = k + 1 := ⟨max 1 s.tmo.toNat - 1, by omega⟩
  have hpolls : Sys2Proof.core.run k s = .next (s.polled k (.seqStep :: rest)) :=
    h.run_polls (fun _ => by omega) (by rw [hin, hk, List.replicate_succ', List.append_assoc]; rfl)
  have hlast : (s.tmoAfter k).toNat ≤ 1 := by
    rw [State.tmoAfter, if_neg ht, BitVec.toNat_ofNat]
    exact (Nat.mod_le _ _).trans (by omega)
  have hstep : step (s.polled k (.seqStep :: rest)) = _ :=
    ((h.polled k _).step_eq rfl).trans (congrArg _ (if_pos ⟨ht, hlast⟩))
  rw [hk, ← State.polled_polled k 1 (.seqStep :: rest)]
  exact (run_add (M := Sys2Proof.core) hpolls 1).trans (core_run_succ hstep 0)

theorem State.tmoAfter_of_le {k : Nat} {s : State} (ht : s.par.timeout ≠ none) (hk : k ≤ s.tmo.toNat) :
    s.tmoAfter k = s.tmo - BitVec.ofNat 32 k := by
  rw [State.tmoAfter, if_neg ht]
  bv_omega

theorem State.tmoAfter_of_ge {k : Nat} {s : State} (ht : s.par.timeout ≠ none) (hk : s.tmo.toNat ≤ k) :
    s.tmoAfter k = 0#32 := by
  rw [State.tmoAfter, if_neg ht, Nat.sub_eq_zero_of_le hk]

/-- Settles O37: the polls that leave something of the budget, and all of them. -/
theorem waitExpiresAfterItsBudget : Obligations.WaitExpiresAfterItsBudget := by
  intro s op w rest hf hpos hbusy ht n hin
  have hwait : s.Awaits op w := ⟨hf, hpos, hbusy⟩
  refine ⟨fun k hk => ?_, ?_⟩
  · have hsplit : s.inputs = List.replicate k Input.seqStep ++ (List.replicate (n - k) Input.seqStep ++ rest) := by
      rw [hin, ← List.append_assoc, List.replicate_append_replicate, Nat.add_sub_cancel' hk.le]
    rw [← State.tmoAfter_of_le ht (by omega)]
    exact hwait.run_polls (fun _ => hk) hsplit
  · rw [← State.tmoAfter_of_ge ht (le_max_right 1 s.tmo.toNat)]
    exact hwait.run_expires ht hin

/-- Settles O38: with a budget of N polls the wait stands before the N-th and ends at it, as O37 has it; without one every
poll leaves the wait standing. -/
theorem waitEndsOnlyByItsBudget : Obligations.WaitEndsOnlyByItsBudget := by
  intro s op w rest hf hpos hbusy
  refine ⟨fun n ht hn htmo hin => ?_, fun n ht hin => ?_⟩
  · have hmax : n.toNat = max 1 s.tmo.toNat := by
      rw [htmo]
      bv_omega
    rw [hmax] at hin ⊢
    obtain ⟨hgoes, hends⟩ := waitExpiresAfterItsBudget s op w rest hf hpos hbusy (by simp [ht]) hin
    exact ⟨fun k hk => ⟨_, hgoes k hk, hpos⟩, _, hends, rfl, rfl⟩
  · have hwait : s.Awaits op w := ⟨hf, hpos, hbusy⟩
    have hkeeps : s.tmoAfter n = s.tmo := if_pos ht
    rw [hwait.run_polls (absurd ht) hin, State.polled, hkeeps]

end Sys2Proof.Machine
end

section
/-! SUPPORT. FC_COMPLETE (40_dispatch_polling.md R146): what each command and each page leaves, without error and with one. -/

namespace Sys2Proof.Machine

/-! The controller's step. -/

theorem FcDraw.clean_iff (d : FcDraw) : d.clean = true ↔ d.accerr = false ∧ d.pviol = false ∧ d.cstat = false := by
  simp [FcDraw.clean, and_assoc]

theorem State.fcComplete_idle {s : State} (h : s.inflight = .none) (d : FcDraw) : s.fcComplete d = s :=
  if_neg (by simp [s.busy_iff, h])

theorem State.fcComplete_busy {s : State} (h : s.inflight ≠ .none) (d : FcDraw) :
    s.fcComplete d =
      { s.completeWork d with
        accerr := s.accerr || d.accerr, pviol := s.pviol || d.pviol, cstat := d.cstat, inflight := .none } :=
  if_pos (s.busy_iff.mpr h)

/-- A command without error sets no flag (40_dispatch_polling.md R146). -/
theorem State.fcComplete_command {s : State} {c : Command} {len : Half} {d : FcDraw} (hc : s.inflight = .cmd c len)
    (hd : d.clean = true) :
    s.fcComplete d =
      { s.completeCommand c len d with accerr := s.accerr, pviol := s.pviol, cstat := false, inflight := .none } := by
  have hwork : s.completeWork d = s.completeCommand c len d := by
    rw [State.completeWork, hc]
    exact if_pos hd
  obtain ⟨haccerr, hpviol, hcstat⟩ := d.clean_iff.mp hd
  rw [State.fcComplete_busy (by simp [hc]), hwork, haccerr, hpviol, hcstat, Bool.or_false, Bool.or_false]

theorem State.completeWork_failed_command {s : State} {c : Command} {len : Half} {d : FcDraw}
    (hc : s.inflight = .cmd c len) (hd : d.clean = false) : s.completeWork d = s.failCommand c d := by
  rw [State.completeWork, hc]
  exact if_neg (by simp [hd])

theorem State.completeWork_failed_page {s : State} {a : Word} {n : Nat} {d : FcDraw} (hp : s.inflight = .page a n)
    (hd : d.clean = false) : s.completeWork d = s.failPage a n d := by
  rw [State.completeWork, hp]
  exact if_neg (by simp [hd])

/-! SET_EEE (40_dispatch_polling.md R140). -/

theorem State.completeSetEee_offline {s : State} (h : s.mode = .offline) :
    s.completeSetEee = { s with mode := .normal, stage := s.nv } := by
  rw [State.completeSetEee, h]

theorem State.completeSetEee_normal {s : State} (h : s.mode = .normal) : s.completeSetEee = s := by
  rw [State.completeSetEee, h]
  exact congrArg (fun m => { s with mode := m }) h.symm

theorem State.completeSetEee_quick {s : State} {w : Half} (h : s.mode = .quick w) :
    s.completeSetEee = { s with mode := .normal, nv := Mem.copyAt s.stage s.qdirty s.nv, qdirty := [] } := by
  rw [State.completeSetEee, h]

/-! The result slots of QUERY (40_dispatch_polling.md R142, R143). -/

theorem State.setSlot_at (k : Fin 12) (v : Byte) (s : State) : (s.setSlot k v).cmdparam[k] = v := by
  simp

theorem State.setSlot_other {j k : Fin 12} (h : j ≠ k) (v : Byte) (s : State) :
    (s.setSlot k v).cmdparam[j] = s.cmdparam[j] := by
  have hne : (k : Nat) ≠ j := fun e => h (Fin.ext e.symm)
  simp [hne]

theorem State.setSlots_frame (ks : List (Fin 12)) (bs : List Byte) (s : State) :
    State.setSlots ks bs s = { s with cmdparam := (State.setSlots ks bs s).cmdparam } := by
  obtain ⟨v, hv⟩ := State.setSlots_eq ks bs s
  rw [hv]

theorem State.setSlots_other {k : Fin 12} {ks : List (Fin 12)} (h : k ∉ ks) (bs : List Byte) (s : State) :
    (State.setSlots ks bs s).cmdparam[k] = s.cmdparam[k] := by
  induction ks generalizing bs s with
  | nil => rfl
  | cons j ks ih =>
    rw [List.mem_cons, not_or] at h
    obtain ⟨hj, hks⟩ := h
    cases bs with
    | nil => rfl
    | cons b bs => rw [State.setSlots, ih hks, State.setSlot_other hj]

/-- Different slots hold the bytes put into them, in their order. -/
theorem State.map_setSlots {ks : List (Fin 12)} {bs : List Byte} (h : ks.Nodup) (hlen : ks.length = bs.length)
    (s : State) : ks.map (fun k => (State.setSlots ks bs s).cmdparam[k]) = bs := by
  induction ks generalizing bs s with
  | nil => rw [List.eq_nil_of_length_eq_zero hlen.symm]; rfl
  | cons k ks ih =>
    obtain ⟨hk, hks⟩ := List.nodup_cons.mp h
    cases bs with
    | nil => cases hlen
    | cons b bs =>
      rw [List.map_cons, State.setSlots, State.setSlots_other hk, State.setSlot_at, ih hks (Nat.succ.inj hlen)]

theorem length_pendResult (n pend : Nat) (d : List Byte) : (pendResult n pend d).length = n := by
  unfold pendResult drawn
  split
  · simp
  · split <;> simp

/-- Zeros exactly where no work is pending (40_dispatch_polling.md R143). -/
theorem pendResult_zero_iff {n : Nat} (hn : 0 < n) (pend : Nat) (d : List Byte) :
    (∀ b ∈ pendResult n pend d, b = 0#8) ↔ pend = 0 := by
  by_cases hpend : pend = 0
  · simp [pendResult, hpend]
  · rw [pendResult, if_neg hpend, iff_false_right hpend]
    intro hzero
    by_cases hall : (drawn n d).all (· == 0#8) = true
    · rw [if_pos hall] at hzero
      exact absurd (hzero 1#8 (List.mem_set (by simpa [drawn] using hn) _)) (by decide)
    · rw [if_neg hall] at hzero
      exact hall (by simpa using hzero)

/-- What an error-free QUERY leaves in CMDPARAM. -/
theorem State.completeQuery_cmdparam {s : State} (hwf : s.par.wf = true) (d : FcDraw) :
    (s.completeQuery d).cmdparam[s.par.slotBo] = boValue s.par s.boLatch ∧
      ((∀ k ∈ s.par.slotPend, (s.completeQuery d).cmdparam[k] = 0#8) ↔ s.pend = 0) ∧
      ∀ k : Fin 12, k ≠ s.par.slotBo → k ∉ s.par.slotPend → (s.completeQuery d).cmdparam[k] = s.cmdparam[k] := by
  obtain ⟨hnodup, hpos⟩ := Params.wf_results hwf
  obtain ⟨hbo, hpend⟩ := List.nodup_cons.mp hnodup
  refine ⟨?_, ?_, fun k hk hkpend => ?_⟩
  · rw [State.completeQuery, State.setSlots_other hbo, State.setSlot_at]
  · have hslots : s.par.slotPend.map (fun k => (s.completeQuery d).cmdparam[k]) = _ :=
      State.map_setSlots hpend (length_pendResult _ _ _).symm _
    rw [← pendResult_zero_iff hpos s.pend d.resPend, ← hslots, List.forall_mem_map]
  · rw [State.completeQuery, State.setSlots_other hkpend, State.setSlot_other hk]

theorem State.completeQuery_frame (d : FcDraw) (s : State) :
    s.completeQuery d = { s with cmdparam := (s.completeQuery d).cmdparam } :=
  State.setSlots_frame _ _ _

/-- Settles O35: command by command, and for SET_EEE mode by mode. -/
theorem commandsComplete : Obligations.CommandsComplete := by
  intro s c len d rest hf hwf hin hc hd
  rw [step_of_fcComplete hf hin, State.fcComplete_command (s := { s with inputs := rest }) hc hd]
  refine ⟨?offline, ?normal, ?quick, ?setQuick, ?query, ?complete⟩
  case offline =>
    rintro rfl hmode
    rw [State.completeCommand, State.completeSetEee_offline (s := { s with inputs := rest }) hmode]
  case normal =>
    rintro rfl hmode
    rw [State.completeCommand, State.completeSetEee_normal (s := { s with inputs := rest }) hmode]
  case quick =>
    rintro w rfl hmode hnv
    rw [State.completeCommand, State.completeSetEee_quick (s := { s with inputs := rest }) hmode]
    exact ⟨_, rfl, rfl, Mem.read_copyAt s.stage s.qdirty hnv⟩
  case setQuick =>
    rintro rfl
    rfl
  case query =>
    rintro rfl
    rw [State.completeCommand, State.completeQuery_frame]
    exact ⟨_, rfl, rfl, State.completeQuery_cmdparam (s := { s with inputs := rest }) hwf d⟩
  case complete =>
    rintro rfl
    rfl

/-! Completions with an error (40_dispatch_polling.md R142, R145). -/

/-- A command that fails writes no CMDPARAM byte but QUERY's result slots. -/
theorem State.failCommand_other {c : Command} {s : State} {k : Fin 12}
    (h : c = .query → k ≠ s.par.slotBo ∧ k ∉ s.par.slotPend) (d : FcDraw) :
    (s.failCommand c d).cmdparam[k] = s.cmdparam[k] := by
  cases c with
  | setEee | setQuick | complete => rfl
  | query =>
    obtain ⟨hbo, hpend⟩ := h rfl
    rw [State.failCommand, State.failQuery, State.setSlots_other hpend, State.setSlot_other hbo]

theorem State.failCommand_frame (c : Command) (d : FcDraw) (s : State) :
    s.failCommand c d = { s with cmdparam := (s.failCommand c d).cmdparam } := by
  cases c with
  | setEee | setQuick | complete => rfl
  | query => exact State.setSlots_frame _ _ _

/-- A failed page leaves drawn bytes in its range (40_dispatch_polling.md R145), and every other byte as it was. -/
theorem Mem.read_writeDrawn {m : Mem} (h : Mem.wf m) (a n b : Nat) (d : List Byte) :
    Mem.read (Mem.writeBytes m a (drawn n d)) b = if inRange b a n then d.getD (b - a) 0#8 else Mem.read m b := by
  have hlen : (drawn n d).length = n := by simp [drawn]
  rw [Mem.read_writeBytes h, hlen]
  split
  · next hb =>
    have hi : b - a < n := by omega
    simp [drawn, hi]
  · rfl

/-- Settles O36: the flags are those of every completion, and the work done is the failed command's or page's. -/
theorem errorCompletions : Obligations.ErrorCompletions := by
  intro s d rest hf hin
  rw [step_of_fcComplete hf hin]
  refine ⟨fun hidle => ?idle, fun c len hc hd => ?command, fun a n hp hd hstage hnv => ?page⟩
  case idle => rw [State.fcComplete_idle (s := { s with inputs := rest }) hidle]
  case command =>
    rw [State.fcComplete_busy (s := { s with inputs := rest }) (by simp [hc]),
      State.completeWork_failed_command (s := { s with inputs := rest }) hc hd, State.failCommand_frame]
    exact ⟨_, rfl, rfl, fun k hk => State.failCommand_other (s := { s with inputs := rest }) hk d⟩
  case page =>
    rw [State.fcComplete_busy (s := { s with inputs := rest }) (by simp [hp]),
      State.completeWork_failed_page (s := { s with inputs := rest }) hp hd]
    refine ⟨_, rfl, rfl, fun b => ?_⟩
    have hstage' := Mem.read_writeDrawn hstage a.toNat n b d.stageBytes
    have hnv' := Mem.read_writeDrawn hnv a.toNat n b d.nvBytes
    exact ⟨fun hb => ⟨hstage'.trans (if_pos hb), hnv'.trans (if_pos hb)⟩,
      fun hb => ⟨hstage'.trans (if_neg hb), hnv'.trans (if_neg hb)⟩⟩

/-! Pages without error (40_dispatch_polling.md R148). -/

/-- Settles O41: the dirty set and the image after a page, as the mode has them. -/
theorem pagesComplete : Obligations.PagesComplete := by
  intro s a n d rest hf hnv hin hp hd
  have hstep := step_completes_page hd hf hin hp
  by_cases hquick : s.quickMode = true
  · rw [if_pos hquick, hstep, State.nvAfterPage, if_pos hquick]
    refine ⟨_, rfl, rfl, fun x => ?_⟩
    rw [State.dirtyAfterPage, if_pos hquick, mem_foldl_insertAddr, mem_addrsFrom]
    exact Or.comm
  · rw [if_neg hquick, hstep, State.dirtyAfterPage, if_neg hquick]
    refine ⟨_, rfl, rfl, fun x => ?_⟩
    rw [State.nvAfterPage, if_neg hquick, Mem.read_copyAt _ _ hnv]
    exact if_congr mem_addrsFrom rfl rfl

end Sys2Proof.Machine
end

section
/-! SUPPORT. Page writes by themselves (40_dispatch_polling.md R130, R131): the bytes they store, and the order of their checks
(R134). -/

namespace Sys2Proof.Machine

theorem exec_page1 {s : State} (hs : s.callable) (a : Word) (b : Byte) :
    exec (.page1 a b) s = .next (s.issuePage a [b]) := State.issueRaw_of_callable hs _

theorem exec_page4 {s : State} (hs : s.callable) (a : Word) (b0 b1 b2 b3 : Byte) :
    exec (.page4 a b0 b1 b2 b3) s = .next (s.issuePage a [b0, b1, b2, b3]) := by
  have hraw : exec (.page4 a b0 b1 b2 b3) s = _ := State.issueRaw_of_callable hs _
  rw [hraw, bytesOfWord_wordOfBytes]

/-! The bytes of a page write (20_memory.md R62). -/

theorem Mem.read_write {m : Mem} (h : Mem.wf m) (a b : Nat) (v : Byte) :
    Mem.read (Mem.write m a v) b = if b = a then v else Mem.read m b := by
  split
  · next hb => rw [hb, Mem.read_write_same h]
  · next hb => exact Mem.read_write_other m v hb

theorem Mem.read_writeBytes_four {m : Mem} (h : Mem.wf m) (a x : Nat) (b b1 b2 b3 : Byte) :
    Mem.read (Mem.writeBytes m a [b, b1, b2, b3]) x =
      if x = a then b else if x = a + 1 then b1 else if x = a + 2 then b2 else if x = a + 3 then b3
      else Mem.read m x := by
  by_cases hx : inRange x a 4
  · obtain ⟨i, rfl⟩ := Nat.exists_eq_add_of_le hx.1
    have hi : i < 4 := by omega
    rw [Mem.read_writeBytes_inside h hi]
    interval_cases i <;> simp
  · rw [Mem.read_writeBytes_other m (by simp only [List.length_cons, List.length_nil]; omega), if_neg (by omega),
      if_neg (by omega), if_neg (by omega), if_neg (by omega)]

/-- A page issue that passes its checks. -/
theorem State.issuePage_of {s : State} {a : Word} {bytes : List Byte} (h : s.pagePrecheck a bytes.length = none) :
    s.issuePage a bytes = { s with
      coll := false, accerr := false, pviol := false, cstat := false, inflight := .page a bytes.length
      stage := Mem.writeBytes s.stage a.toNat bytes } := by
  rw [State.issuePage, h]
  simp [State.w1c, State.clearFlags, clrMask]

/-- Settles O39: the checks pass, and the bytes stored are the operand's in address order. -/
theorem pageWritesIssue : Obligations.PageWritesIssue := by
  intro s a b b1 b2 b3 hs hstage hidle honline hroutine
  have hpass (n : Nat) (hrange : a.toNat + n ≤ s.par.eeeSize) (halign : n = 4 → a.toNat % 4 = 0)
      (hquick : s.quickMode = true → n = 4) : s.pagePrecheck a n = none :=
    State.pagePrecheck_of (s.not_busy_iff.mpr hidle) (s.ready_iff.mpr honline) hrange halign hquick hroutine
  refine ⟨fun hquick hrange => ?_, fun halign hrange => ?_⟩
  · rw [exec_page1 hs, State.issuePage_of (hpass 1 hrange nofun (by simp [hquick]))]
    exact ⟨_, rfl, rfl, fun x => Mem.read_write hstage _ _ _⟩
  · rw [exec_page4 hs, State.issuePage_of (hpass 4 hrange (fun _ => halign) fun _ => rfl)]
    exact ⟨_, rfl, rfl, fun x => Mem.read_writeBytes_four hstage _ _ _ _ _ _⟩

/-! The checks (40_dispatch_polling.md R134). -/

/-- PAGE_PRECHECK on the fields its views read. -/
theorem State.pagePrecheck_eq (a : Word) (n : Nat) (s : State) :
    s.pagePrecheck a n =
      if s.inflight ≠ .none then some .launchWhileBusy
      else if s.mode = .offline then some .stageOffline
      else if s.par.eeeSize < a.toNat + n then some .outOfRange
      else if n = 4 ∧ a.toNat % 4 ≠ 0 then some .pageUnaligned
      else if s.quickMode = true ∧ n ≠ 4 then some .quickUnaligned
      else if s.par.loadOnStart = true ∧ s.routine ≠ requiredRoutine s.srckind then some .noRoutine
      else none := by
  simp only [State.pagePrecheck, State.busy_iff, State.ready_eq, State.routineMissing, Bool.and_eq_true,
    decide_eq_true_eq, decide_eq_false_iff_not, not_not]

/-- The first check that fails is the fault of a page write of `n` bytes, and nothing else changes. -/
theorem exec_page_of_precheck {s : State} {a : Word} {n : Nat} {i : Instr} {r : Fault} (hs : s.callable)
    (hi : (∃ b, i = .page1 a b) ∧ n = 1 ∨ (∃ b0 b1 b2 b3, i = .page4 a b0 b1 b2 b3) ∧ n = 4)
    (hr : s.pagePrecheck a n = some r) : exec i s = .next { s with fault := some r } := by
  have hissue : ∃ bytes, exec i s = .next (s.issuePage a bytes) ∧ bytes.length = n := by
    rcases hi with ⟨⟨b, rfl⟩, rfl⟩ | ⟨⟨b0, b1, b2, b3, rfl⟩, rfl⟩
    · exact ⟨_, exec_page1 hs a b, rfl⟩
    · exact ⟨_, exec_page4 hs a b0 b1 b2 b3, rfl⟩
  obtain ⟨bytes, hexec, hlen⟩ := hissue
  rw [hexec, State.issuePage, hlen, hr]
  rfl

/-- Settles O40: check by check. -/
theorem pagePrecheckOrder : Obligations.PagePrecheckOrder := by
  intro s a n i hs hi
  have hfault {r : Fault} : s.pagePrecheck a n = some r → exec i s = .next { s with fault := some r } :=
    exec_page_of_precheck hs hi
  rw [State.pagePrecheck_eq] at hfault
  split
  · next hbusy => exact hfault (if_pos hbusy)
  next hidle =>
  rw [if_neg hidle] at hfault
  split
  · next hoffline => exact hfault (if_pos hoffline)
  next honline =>
  rw [if_neg honline] at hfault
  split
  · next hout => exact hfault (if_pos hout)
  next hrange =>
  rw [if_neg hrange] at hfault
  split
  · next hunaligned => exact hfault (if_pos hunaligned)
  next haligned =>
  rw [if_neg haligned] at hfault
  split
  · next hbyte => exact hfault (if_pos hbyte)
  next hword =>
  rw [if_neg hword] at hfault
  intro hload hroutine
  refine hfault (if_pos ⟨hload, ?_⟩)
  cases hkind : s.srckind with
  | buffer | pattern => rwa [hkind] at hroutine

end Sys2Proof.Machine
end

section
/-! SUPPORT. ERASE.S whose pages all complete without error: the loop of WRITE.S with the erased value for its bytes. -/

namespace Sys2Proof.Machine

/-- Settles O44: a synchronous transfer without a source, whose pages put the erased value everywhere. -/
theorem syncEraseLaw : Obligations.SyncEraseLaw := by
  intro s dst len d rest hs hpar hsync hjob hstage hnv hlegal hd hin
  obtain ⟨u, t, hexec, ⟨hrun, hwaits⟩, ht, hpages⟩ := State.invoke_startSync_transfers (op := 0x04#8) (src := none) hs
    hpar (by simp [opPresent, hsync]) hjob nofun hstage hnv hlegal hd hin
  have hsrc : t.src = s.src + len := congrArg State.src ht
  refine ⟨u, t, hexec, hrun, hwaits, ?_, hpages⟩
  rw [hsrc]
  exact ht

end Sys2Proof.Machine
end

section
/-! SUPPORT. Accesses of the CPU from outside the block that have no meaning (40_dispatch_polling.md R149, R150). -/

namespace Sys2Proof.Machine

theorem meets_iff (a n b m : Nat) : meets a n b m = true ↔ ∃ x, inRange x a n ∧ inRange x b m := by
  simp only [meets, decide_eq_true_eq]
  constructor
  · intro h
    exact ⟨max a b, by omega, by omega⟩
  · rintro ⟨x, hx, hx'⟩
    omega

theorem cmdparamAt_isSome (p : Params) (k : Fin 12) : ∃ j, cmdparamAt p p.offCmdparam[k] = some j := by
  cases hfind : cmdparamAt p p.offCmdparam[k] with
  | none => exact absurd (List.find?_eq_none.mp hfind k (List.mem_finRange k)) (by simp)
  | some j => exact ⟨j, rfl⟩

theorem State.cpuStore_staging {s : State} {addr : Word} {data : List Byte}
    (h : meets addr.toNat data.length s.par.flexramBase.toNat s.par.eeeSize = true) :
    s.cpuStore addr data = .next (s.raise .stageWriteBypass) := if_pos h

theorem State.cpuLoad_busy {s : State} {addr : Word} {n : Nat} (hb : s.busy = true)
    (h : meets addr.toNat n s.par.flexramBase.toNat s.par.eeeSize = true) :
    s.cpuLoad addr n = .next (s.raise .readWhileBusy) := if_pos (by rw [h, hb]; rfl)

/-- Whichever of the bytes at this offset is meant, none is written while busy. -/
theorem State.storeRegister_busy {s : State} (hb : s.busy = true) {k : Fin 12}
    (hk : s.par.offCmdparam[k] ≠ s.par.offStatus) (v : Byte) :
    s.storeRegister s.par.offCmdparam[k] v = .next (s.raise .paramWriteWhileBusy) := by
  obtain ⟨j, hj⟩ := cmdparamAt_isSome s.par k
  rw [State.storeRegister, if_neg hk, hj]
  exact congrArg _ (if_pos hb)

/-- Settles O59: where the access goes decides its fault. -/
theorem outsideAccessFaults : Obligations.OutsideAccessFaults := by
  intro s addr rest hf
  refine ⟨fun data hin hmeets => ?store, fun n hin hbusy hmeets => ?load,
    fun v k hin hbusy hstage hoff hk haddr => ?param⟩
  case store =>
    rw [step_of_store hf hin, State.cpuStore_staging (s := { s with inputs := rest }) ((meets_iff _ _ _ _).mpr hmeets)]
    rfl
  case load =>
    rw [step_of_load hf hin, State.cpuLoad_busy (s := { s with inputs := rest }) (s.busy_iff.mpr hbusy)
      ((meets_iff _ _ _ _).mpr hmeets)]
    rfl
  case param =>
    rw [step_of_store hf hin, State.cpuStore_register (s := { s with inputs := rest }) ⟨hstage, haddr, hoff⟩,
      State.storeRegister_busy (s := { s with inputs := rest }) (s.busy_iff.mpr hbusy) hk]
    rfl

end Sys2Proof.Machine
end

section
/-! SUPPORT. One page of a transfer: the page at the cursor issued, with the bytes that it puts in `Stage`
(40_dispatch_polling.md R130 to R134). -/

namespace Sys2Proof.Machine

/-- The page at the cursor passes the checks of its issue (40_dispatch_polling.md R134). Nothing is asked of the pages after
it, where `State.MayPage` asks for a transfer whose every page is legal. -/
structure State.MayIssue (s : State) : Prop where
  sound : s.fault = none
  left : s.rem ≠ 0#32
  legal : s.pageLegal (requiredRoutine s.srckind) s.nextPage
  range : s.dst.toNat + s.rem.toNat ≤ s.par.eeeSize
  stage : Mem.wf s.stage

theorem pageSize_four {d r : Word} (h : pageSize d r = 4) : d.toNat % 4 = 0 := by
  rcases pageSize_cases d r with ⟨-, haligned, -⟩ | ⟨hone, -⟩
  · exact haligned
  · cases hone.symm.trans h

theorem State.routineMissing_of {s : State} (h : s.par.loadOnStart = true → s.routine = requiredRoutine s.srckind) :
    s.routineMissing = false := by
  simpa [State.routineMissing] using h

theorem State.MayIssue.issuePage {s : State} (h : s.MayIssue) :
    s.issuePage s.dst (s.pageBytes s.nextPage) = s.issueNextPage := by
  obtain ⟨hidle, honline, hquick, hroutine⟩ := h.legal
  have hle := State.nextPage_le h.left
  have hrange := h.range
  have hpass : s.pagePrecheck s.dst s.nextPage = none :=
    State.pagePrecheck_of (s.not_busy_iff.mpr hidle) (s.ready_iff.mpr honline) (by omega) pageSize_four hquick
      (State.routineMissing_of hroutine)
  rw [State.issuePage_of (by rwa [State.length_pageBytes]), State.length_pageBytes]
  rfl

/-- The bytes of the page, and no others, are new in `Stage` (40_dispatch_polling.md R133). -/
theorem State.MayIssue.read_stage {s : State} (h : s.MayIssue) (b : Nat) :
    Mem.read s.issueNextPage.stage b =
      if inRange b s.dst.toNat s.nextPage then s.pageValue b else Mem.read s.stage b := by
  have hstage : s.issueNextPage.stage = Mem.writeBytes s.stage s.dst.toNat (s.pageBytes s.nextPage) := rfl
  rw [hstage, Mem.read_writeBytes h.stage, State.length_pageBytes]
  split
  · exact State.pageBytes_getD ‹_›
  · rfl

/-- The loop of a synchronous transfer issues the page and waits for it (41_write_paths.md R160). -/
theorem State.MayIssue.writeLoop {s : State} (h : s.MayIssue) (op : Byte) (len : Word) :
    s.writeLoop op len = s.issueNextPage.startWait op (.page len) := by
  rw [State.writeLoop, if_neg h.left, h.issuePage, State.ifSound_of_sound (s := s.issueNextPage) h.sound]

/-- One invocation of the asynchronous path issues the page and returns WRITE_REQUESTED (41_write_paths.md R172). -/
theorem State.MayIssue.asyncStep {s : State} (h : s.MayIssue) (hclean : ¬ (s.issued = true ∧ s.inError = true))
    (op : Byte) :
    s.asyncStep op =
      ({ s.issueNextPage.advance s.nextPage with issued := true }.reloadTmo).finish .writeRequested (some s.nextPage) := by
  have hb : ¬ s.busy = true := by rw [s.busy_iff]; exact not_not_intro h.legal.1
  have hchecked : State.MayIssue { s with issued := false } := { h with }
  rw [State.asyncStep, if_neg hb, if_neg (by simpa using hclean), if_neg h.left, State.asyncIssue]
  exact (congrArg (fun u : State => u.ifSound _) hchecked.issuePage).trans
    (State.ifSound_of_sound (s := State.issueNextPage { s with issued := false }) h.sound _)

/-- The registers of an accepted transfer whose first page is legal, just loaded. -/
theorem State.loadTransfer_mayIssue {s : State} {dst len : Word} {src : Option Word} (hs : s.callable)
    (hjob : s.accepts dst len) (hstage : Mem.wf s.stage) (hlegal : s.pageLegal (routineFor src) (firstPage dst len)) :
    (s.loadTransfer dst len src).MayIssue := by
  obtain ⟨-, hlen, hrange, -⟩ := hjob
  refine ⟨hs.1, hlen, ?_, hrange, hstage⟩
  rw [requiredRoutine_loadTransfer]
  exact hlegal

end Sys2Proof.Machine
end

section
/-! SUPPORT. The first step of a write or an erase (41_write_paths.md R160, R170, R180, R181). -/

namespace Sys2Proof.Machine

/-! With READY = 0. -/

theorem State.startSync_offline {s : State} (h : s.mode = .offline) (op : Byte) (dst len : Word) (src : Option Word) :
    s.startSync op dst len src = s.finish .failed (some 0) :=
  if_neg (by simp [State.ready_eq, h])

theorem State.startAsync_offline {s : State} (h : s.mode = .offline) (op : Byte) (dst len : Word) (src : Option Word) :
    s.startAsync op dst len src = State.finish .failed (some 0) { s with result := .failed } :=
  if_neg (by simp [State.ready_eq, h])

theorem State.whenReadable_offline {s : State} (h : s.mode = .offline) (body : State → State) :
    s.whenReadable body = s.finish .failed none :=
  if_pos (by simp [State.ready_eq, h])

/-- What an operation that returns in its own step leaves: it never waited. -/
theorem State.finish_of_idle {s : State} (h : s.pos = .idle) (st : Status) (n : Option Nat) :
    s.finish st n = { s with ret := some ⟨st, n⟩ } := by
  rw [State.finish, ← h]

/-- A synchronous transfer of an accepted request. -/
theorem State.invoke_startSync_offline {s : State} {op : Byte} {dst len : Word} {src : Option Word} (hs : s.callable)
    (hp : opPresent s.par op = true) (hjob : s.accepts dst len) (hbuffer : ∀ q, src = some q → s.bufferOk q len)
    (hoff : s.mode = .offline) :
    s.invoke op (fun t => t.whenJob op (some 0) (t.checkJob dst len src) (State.startSync op dst len src)) =
      .next { s with ret := some ⟨.failed, some 0⟩ } := by
  rw [State.invoke_accepted hs hp hjob hbuffer, State.startSync_offline (s := s.invoked) hoff,
    State.finish_of_idle (s := s.invoked) hs.2]
  rfl

/-- An asynchronous transfer of an accepted request. -/
theorem State.invoke_startAsync_offline {s : State} {op : Byte} {dst len : Word} {src : Option Word} (hs : s.callable)
    (hp : opPresent s.par op = true) (hjob : s.accepts dst len) (hbuffer : ∀ q, src = some q → s.bufferOk q len)
    (hoff : s.mode = .offline) :
    s.invoke op (fun t => t.whenJob op (some 0) (t.checkJob dst len src) (State.startAsync op dst len src)) =
      .next { s with ret := some ⟨.failed, some 0⟩, result := .failed } := by
  rw [State.invoke_accepted hs hp hjob hbuffer, State.startAsync_offline (s := s.invoked) hoff,
    State.finish_of_idle (s := { s.invoked with result := .failed }) hs.2]
  rfl

/-- READ's or COMPARE's loop behind its checks. -/
theorem State.invoke_whenReadable_offline {s : State} {op : Byte} {a q len : Word} (hs : s.callable)
    (hp : opPresent s.par op = true) (hjob : s.accepts a len) (hbuffer : s.bufferOk q len) (hoff : s.mode = .offline)
    (body : State → State) :
    s.invoke op (fun t => t.whenJob op none (t.checkJob a len (some q)) (State.whenReadable body)) =
      .next { s with ret := some ⟨.failed, none⟩ } := by
  rw [State.invoke_accepted hs hp hjob (State.bufferOk_of_some hbuffer), State.whenReadable_offline (s := s.invoked) hoff,
    State.finish_of_idle (s := s.invoked) hs.2]
  rfl

/-- Settles O20: CHECK_JOB accepts, and the operation ends where it reads READY. -/
theorem offlineTransferFails : Obligations.OfflineTransferFails := by
  intro s a q len hs hjob hoff
  refine ⟨fun hsync => ⟨fun hbuffer => ?writeS, ?eraseS⟩, fun hasync => ⟨fun hbuffer => ?writeA, ?eraseA⟩,
    fun hbuffer => ⟨?read, ?compare⟩⟩
  case writeS =>
    exact State.invoke_startSync_offline (op := 0x02#8) hs (by simp [opPresent, hsync]) hjob
      (State.bufferOk_of_some hbuffer) hoff
  case eraseS =>
    exact State.invoke_startSync_offline (op := 0x04#8) (src := none) hs (by simp [opPresent, hsync]) hjob nofun hoff
  case writeA =>
    exact State.invoke_startAsync_offline (op := 0x03#8) hs hasync hjob (State.bufferOk_of_some hbuffer) hoff
  case eraseA => exact State.invoke_startAsync_offline (op := 0x05#8) (src := none) hs hasync hjob nofun hoff
  case read => exact State.invoke_whenReadable_offline (op := 0x07#8) hs rfl hjob hbuffer hoff _
  case compare => exact State.invoke_whenReadable_offline (op := 0x08#8) hs rfl hjob hbuffer hoff _

/-! With READY = 1. -/

/-- WRITE.S or ERASE.S of an accepted request whose first page is legal (41_write_paths.md R160, R180). -/
theorem State.invoke_startSync_issues {s : State} {op : Byte} {dst len : Word} {src : Option Word} (hs : s.callable)
    (hp : opPresent s.par op = true) (hjob : s.accepts dst len) (hbuffer : ∀ q, src = some q → s.bufferOk q len)
    (hmay : (s.invoked.loadTransfer dst len src).MayIssue) :
    s.invoke op (fun t => t.whenJob op (some 0) (t.checkJob dst len src) (State.startSync op dst len src)) =
      .next ((s.invoked.loadTransfer dst len src).issueNextPage.startWait op (.page len)) := by
  obtain ⟨-, honline, -, -⟩ := hmay.legal
  rw [State.invoke_accepted hs hp hjob hbuffer, State.startSync_ready (s := s.invoked) honline, hmay.writeLoop]

/-- Settles O42: the page of a write has the buffer's bytes, that of an erase the erased value. -/
theorem syncTransferStarts : Obligations.SyncTransferStarts := by
  intro s dst src len hs hsync hjob hstage n
  have hmay (src : Option Word) (hlegal : s.pageLegal (routineFor src) n) :
      (s.invoked.loadTransfer dst len src).MayIssue :=
    State.loadTransfer_mayIssue (s := s.invoked) hs hjob hstage hlegal
  refine ⟨fun hbuffer hlegal => ?write, fun hlegal => ?erase⟩
  case write =>
    have hpage := hmay (some src) hlegal
    exact ⟨_, State.invoke_startSync_issues (op := 0x02#8) hs (by simp [opPresent, hsync]) hjob
      (State.bufferOk_of_some hbuffer) hpage, rfl, hpage.read_stage⟩
  case erase =>
    have hpage := hmay none hlegal
    exact ⟨_, State.invoke_startSync_issues (op := 0x04#8) hs (by simp [opPresent, hsync]) hjob nofun hpage, rfl,
      hpage.read_stage⟩

end Sys2Proof.Machine
end

section
/-! SUPPORT. A synchronous transfer after the wait for a page (41_write_paths.md R160, R180). -/

namespace Sys2Proof.Machine

/-- The poll that finds a page of a synchronous transfer complete with an error flag ends the transfer there. -/
theorem step_polls_failed_page {s : State} {op : Byte} {len : Word} {rest : List Input} (hf : s.fault = none)
    (hin : s.inputs = .seqStep :: rest) (hpos : s.pos = .waiting op (.page len)) (hidle : s.inflight = .none)
    (herr : s.inError = true) :
    step s = .next (State.finish .failed (some (len.toNat - s.rem.toNat)) { s with inputs := rest }) := by
  have hfailed : State.afterPage op len false { s with inputs := rest } =
      State.finish .failed (some (len.toNat - s.rem.toNat)) { s with inputs := rest } :=
    (if_neg Bool.false_ne_true).trans (if_pos herr)
  rw [step_polls hf hpos hin, State.pollIteration_idle (s := { s with inputs := rest }) hidle]
  exact congrArg _ hfailed

/-- Moved past a page with something left, the transfer issues its next page where that is legal. -/
theorem State.advance_mayIssue {s : State} (hf : s.fault = none) (hrem : 0 < s.rem.toNat)
    (hrange : s.dst.toNat + s.rem.toNat ≤ s.par.eeeSize) (hstage : Mem.wf s.stage)
    (hleft : (s.advance s.nextPage).rem ≠ 0#32)
    (hlegal : s.pageLegal (requiredRoutine s.srckind) (s.advance s.nextPage).nextPage) :
    (s.advance s.nextPage).MayIssue := by
  have hle : s.nextPage ≤ s.rem.toNat := State.nextPage_le (by bv_omega)
  exact ⟨hf, hleft, hlegal, (State.advance_range hle).1.trans hrange, hstage⟩

/-- Settles O45: the flags decide, and then whether something is left behind the page. -/
theorem syncPageOutcome : Obligations.SyncPageOutcome := by
  intro s op len rest hf hpos hin hidle
  split
  · next herr =>
    rw [step_polls_failed_page hf hin hpos hidle herr]
    rfl
  next hclean =>
  intro n dst src rem
  have hstep := step_polls_page hf hin hpos hidle (Bool.eq_false_of_not_eq_true hclean)
  split
  · next hlast =>
    have hend : State.writeLoop op len (State.advance s.nextPage { s with inputs := rest }) =
        State.finish .ok (some len.toNat) (State.advance s.nextPage { s with inputs := rest }) := if_pos hlast
    rw [hstep, hend, ← hlast]
    rfl
  · next hleft =>
    intro hrange hrem hstage hlegal
    have hmay : (State.advance s.nextPage { s with inputs := rest }).MayIssue :=
      State.advance_mayIssue (s := { s with inputs := rest }) hf hrem hrange hstage hleft hlegal
    rw [hmay.writeLoop] at hstep
    refine ⟨_, hstep, ?_, hmay.read_stage⟩
    rw [hpos]
    rfl

end Sys2Proof.Machine
end

section
/-! SUPPORT. One invocation of the asynchronous path (41_write_paths.md R170 to R173, R181). -/

namespace Sys2Proof.Machine

/-! With CC = 0: one poll of the budget (41_write_paths.md R172). -/

theorem State.asyncStep_busy {s : State} (hbusy : s.inflight ≠ .none) (op : Byte) : s.asyncStep op = s.asyncBusy op :=
  if_pos (s.busy_iff.mpr hbusy)

theorem State.asyncBusy_without_budget {s : State} (ht : s.par.timeout = none) (op : Byte) :
    s.asyncBusy op = s.finish .writeRequested (some 0) := by
  rw [State.asyncBusy, ht]

theorem State.asyncBusy_expired {s : State} (ht : s.par.timeout ≠ none) (hlast : s.tmo.toNat ≤ 1) (op : Byte) :
    s.asyncBusy op = { s with
      tmo := 0#32, result := .failed, issued := false, det := s.detWith op .timeout, pos := .idle
      ret := some ⟨.failed, some 0⟩ } := by
  obtain ⟨n, hn⟩ := Option.ne_none_iff_exists'.mp ht
  have hzero : s.countDown.tmo = 0#32 := s.countDown_eq_zero.mpr hlast
  have hcount : s.countDown = { s with tmo := 0#32 } := by rw [← hzero]; rfl
  rw [State.asyncBusy, hn]
  refine (if_pos hzero).trans ?_
  rw [hcount]
  rfl

theorem State.asyncBusy_counts {s : State} (ht : s.par.timeout ≠ none) (hmore : ¬ s.tmo.toNat ≤ 1) (op : Byte) :
    s.asyncBusy op = State.finish .writeRequested (some 0) { s with tmo := s.tmo - 1#32 } := by
  obtain ⟨n, hn⟩ := Option.ne_none_iff_exists'.mp ht
  have hcount : s.countDown = { s with tmo := s.tmo - 1#32 } := State.countDown_of_pos (by bv_omega)
  rw [State.asyncBusy, hn, ← hcount]
  exact if_neg (mt s.countDown_eq_zero.mp hmore)

/-! With CC = 1 and no page issued (41_write_paths.md R172). -/

theorem State.asyncStep_failed {s : State} (hidle : s.inflight = .none) (hpage : s.issued = true ∧ s.inError = true)
    (op : Byte) :
    s.asyncStep op = State.finish .failed (some 0) { s with issued := false, result := .failed } := by
  rw [State.asyncStep, if_neg (by simp [s.busy_iff, hidle]), if_pos (by simp [hpage])]

theorem State.asyncStep_complete {s : State} (hidle : s.inflight = .none)
    (hpage : ¬ (s.issued = true ∧ s.inError = true)) (hrem : s.rem = 0#32) (op : Byte) :
    s.asyncStep op = State.finish .ok (some 0) { s with issued := false, result := .ok } := by
  rw [State.asyncStep, if_neg (by simp [s.busy_iff, hidle]), if_neg (by simpa using hpage), if_pos hrem]

/-! The first invocation of a transfer (41_write_paths.md R170, R181). -/

/-- WRITE.A or ERASE.A of an accepted request with READY = 1 and CC = 1, whose first page is legal. -/
theorem State.invoke_startAsync_issues {s : State} {op : Byte} {dst len : Word} {src : Option Word} (hs : s.callable)
    (hp : opPresent s.par op = true) (hjob : s.accepts dst len) (hbuffer : ∀ q, src = some q → s.bufferOk q len)
    (hmay : (s.loadTransfer dst len src).MayIssue) :
    s.invoke op (fun t => t.whenJob op (some 0) (t.checkJob dst len src) (State.startAsync op dst len src)) =
      .next { (s.loadTransfer dst len src).issueNextPage.advance (firstPage dst len) with
        result := .pending, issued := true, tmo := s.par.timeout.getD s.tmo
        ret := some ⟨.writeRequested, some (firstPage dst len)⟩ } := by
  have hbegun : (s.invoked.beginAsync dst len src).MayIssue := { hmay with }
  obtain ⟨-, honline, -, -⟩ := hmay.legal
  rw [State.invoke_accepted hs hp hjob hbuffer, State.startAsync_ready (s := s.invoked) honline, hbegun.asyncStep nofun,
    State.finish_of_idle (by exact hs.2), ← getD_getD_self s.par.timeout s.tmo]
  rfl

/-- WRITE.A or ERASE.A of an accepted request with READY = 1 and CC = 0. -/
theorem State.invoke_startAsync_busy {s : State} {op : Byte} {dst len : Word} {src : Option Word} (hs : s.callable)
    (hp : opPresent s.par op = true) (hjob : s.accepts dst len) (hbuffer : ∀ q, src = some q → s.bufferOk q len)
    (honline : s.mode ≠ .offline) (hbusy : s.inflight ≠ .none) :
    s.invoke op (fun t => t.whenJob op (some 0) (t.checkJob dst len src) (State.startAsync op dst len src)) =
      .next ((s.invoked.beginAsync dst len src).asyncBusy op) := by
  rw [State.invoke_accepted hs hp hjob hbuffer, State.startAsync_ready (s := s.invoked) honline,
    State.asyncStep_busy (s := s.invoked.beginAsync dst len src) hbusy]

/-- The budget just loaded is gone after one poll where it was one poll, or none (log 41). -/
theorem budget_spent_iff (budget : Option Word) (tmo : Word) :
    budget = some 0#32 ∨ budget = some 1#32 ↔ budget ≠ none ∧ (budget.getD tmo).toNat ≤ 1 := by
  cases budget with
  | none => simp
  | some b =>
    simp only [Option.some.injEq, Option.getD_some, ne_eq, reduceCtorEq, not_false_eq_true, true_and]
    bv_omega

/-- The poll that spends the budget of a transfer just begun. -/
theorem State.beginAsync_expires {s : State} (hidle : s.pos = .idle)
    (hexp : s.par.timeout = some 0#32 ∨ s.par.timeout = some 1#32) (op : Byte) (dst len : Word) (src : Option Word) :
    (s.invoked.beginAsync dst len src).asyncBusy op = { s.loadTransfer dst len src with
      issued := false, result := .failed, tmo := 0#32, det := s.detWith op .timeout
      ret := some ⟨.failed, some 0⟩ } := by
  obtain ⟨hbudget, hlast⟩ := (budget_spent_iff _ s.tmo).mp hexp
  rw [State.asyncBusy_expired (s := s.invoked.beginAsync dst len src) hbudget hlast, ← hidle]
  rfl

/-- The poll that leaves some of that budget, or where there is none. -/
theorem State.beginAsync_counts {s : State} (hidle : s.pos = .idle)
    (hexp : ¬ (s.par.timeout = some 0#32 ∨ s.par.timeout = some 1#32)) (op : Byte) (dst len : Word) (src : Option Word) :
    (s.invoked.beginAsync dst len src).asyncBusy op = { s.loadTransfer dst len src with
      issued := false, result := .pending, tmo := (s.par.timeout.map fun b => b - 1#32).getD s.tmo
      ret := some ⟨.writeRequested, some 0⟩ } := by
  rw [budget_spent_iff _ s.tmo] at hexp
  have htmo : (s.invoked.beginAsync dst len src).tmo = s.par.timeout.getD s.tmo := rfl
  by_cases ht : s.par.timeout = none
  · rw [State.asyncBusy_without_budget (s := s.invoked.beginAsync dst len src) ht, State.finish_of_idle (by exact hidle),
      htmo, ht]
    rfl
  · obtain ⟨b, hb⟩ := Option.ne_none_iff_exists'.mp ht
    rw [State.asyncBusy_counts (s := s.invoked.beginAsync dst len src) ht fun hlast => hexp ⟨ht, hlast⟩,
      State.finish_of_idle (by exact hidle), htmo, hb]
    rfl

/-- Settles O46: with CC = 1 the first page is issued, with CC = 0 the budget just loaded is polled once. -/
theorem asyncTransferStarts : Obligations.AsyncTransferStarts := by
  intro s dst src len hs hasync hjob hstage n
  have hmay (src : Option Word) (hlegal : s.pageLegal (routineFor src) n) : (s.loadTransfer dst len src).MayIssue :=
    State.loadTransfer_mayIssue hs hjob hstage hlegal
  refine ⟨fun hbuffer hlegal => ?write, fun hlegal => ?erase, fun hbusy honline => ?busy⟩
  case write =>
    have hpage := hmay (some src) hlegal
    exact ⟨_, State.invoke_startAsync_issues (op := 0x03#8) hs hasync hjob (State.bufferOk_of_some hbuffer) hpage, rfl,
      hpage.read_stage⟩
  case erase =>
    have hpage := hmay none hlegal
    exact ⟨_, State.invoke_startAsync_issues (op := 0x05#8) hs hasync hjob nofun hpage, rfl, hpage.read_stage⟩
  case busy =>
    intro expired polled
    have hpolled (op : Byte) (src : Option Word) : (s.invoked.beginAsync dst len src).asyncBusy op =
        { polled op with src := src.getD s.src, srckind := (s.loadTransfer dst len src).srckind } := by
      by_cases hexp : expired
      · rw [State.beginAsync_expires hs.2 hexp]
        simp only [polled, if_pos hexp]
        rfl
      · rw [State.beginAsync_counts hs.2 hexp]
        simp only [polled, if_neg hexp]
        rfl
    exact ⟨fun hbuffer => (State.invoke_startAsync_busy (op := 0x03#8) hs hasync hjob (State.bufferOk_of_some hbuffer)
        honline hbusy).trans (congrArg _ (hpolled 0x03#8 (some src))),
      _, (State.invoke_startAsync_busy (op := 0x05#8) (src := none) hs hasync hjob nofun honline hbusy).trans
        (congrArg _ (hpolled 0x05#8 none)), rfl⟩

/-! POLL (41_write_paths.md R171, R172). -/

theorem exec_poll {s : State} (hs : s.callable) (hasync : s.par.async = true) (hinit : s.initDone = true) :
    exec .poll s = .next s.invoked.pollResult := by
  have hinvoke : exec .poll s = _ := State.invoke_of_callable hs (op := 0x06#8) hasync _
  rw [hinvoke, State.whenInit_of_init (s := { s with ret := none }) hinit]
  rfl

/-- Settles O47: the transfer's result decides, and while it is PENDING the branch of its asynchronous step. -/
theorem pollOutcomes : Obligations.PollOutcomes := by
  intro s hs hasync hinit
  have hidle : s.invoked.pos = .idle := hs.2
  have hrepeat {r : SeqResult} {st : Status} (hr : s.result = r)
      (hst : ∀ u : State, u.result = r → u.pollResult = u.finish st (some 0)) :
      exec .poll s = .next { s with ret := some ⟨st, some 0⟩ } := by
    rw [exec_poll hs hasync hinit, hst s.invoked hr, State.finish_of_idle hidle]
    rfl
  refine ⟨(hrepeat · fun u hu => ?ok), (hrepeat · fun u hu => ?failed), (hrepeat · fun u hu => ?canceled),
    (hrepeat · fun u hu => ?idle), fun hpending => ?pending⟩
  case ok | failed | canceled | idle => rw [State.pollResult, hu]
  case pending =>
  have hpoll : exec .poll s = .next (s.invoked.asyncStep 0x06#8) := by
    rw [exec_poll hs hasync hinit, State.pollResult, show s.invoked.result = .pending from hpending]
  split
  · next hbusy =>
    rw [State.asyncStep_busy (s := s.invoked) hbusy] at hpoll
    split
    · next ht =>
      rw [hpoll, State.asyncBusy_without_budget (s := s.invoked) ht, State.finish_of_idle hidle]
      rfl
    next ht =>
    split
    · next hlast =>
      rw [hpoll, State.asyncBusy_expired (s := s.invoked) ht hlast, ← hidle]
      rfl
    · next hmore =>
      rw [hpoll, State.asyncBusy_counts (s := s.invoked) ht hmore, State.finish_of_idle (by exact hidle)]
      rfl
  next hbusy =>
  have hfree : s.inflight = .none := not_not.mp hbusy
  split
  · next herr =>
    rw [hpoll, State.asyncStep_failed (s := s.invoked) hfree herr, State.finish_of_idle (by exact hidle)]
    rfl
  next hclean =>
  split
  · next hrem =>
    rw [hpoll, State.asyncStep_complete (s := s.invoked) hfree hclean hrem, State.finish_of_idle (by exact hidle)]
    rfl
  · next hrem =>
    rintro hstage hrange n rfl hlegal
    have hmay : s.invoked.MayIssue := ⟨hs.1, hrem, hlegal, hrange, hstage⟩
    rw [hmay.asyncStep hclean, State.finish_of_idle (by exact hidle)] at hpoll
    exact ⟨_, hpoll, rfl, hmay.read_stage⟩

end Sys2Proof.Machine
end

section
/-! SUPPORT. The bound on the work of one asynchronous invocation (41_write_paths.md R173). -/

namespace Sys2Proof.Machine

/-- From `s` an operation has returned in its own step, and `Stage` is new at most in the four bytes from `cursor` on. -/
def State.ReturnsWithin (cursor : Word) (s t : State) : Prop :=
  t.pos = .idle ∧ ∀ b, ¬ inRange b cursor.toNat 4 → Mem.read t.stage b = Mem.read s.stage b

theorem State.ReturnsWithin.of_stage {cursor : Word} {s t : State} (hpos : t.pos = .idle) (hstage : t.stage = s.stage) :
    s.ReturnsWithin cursor t :=
  ⟨hpos, fun _ _ => by rw [hstage]⟩

/-! Branches. -/

theorem State.ReturnsWithin.ifSound {cursor : Word} {s u : State} {f : State → State} (h : s.ReturnsWithin cursor u)
    (hpos : (f u).pos = .idle) (hstage : (f u).stage = u.stage) : s.ReturnsWithin cursor (u.ifSound f) := by
  rcases State.ifSound_cases u f with ⟨-, e⟩ | ⟨-, e⟩ <;> rw [e]
  · exact ⟨hpos, fun b hb => by rw [hstage, h.2 b hb]⟩
  · exact h

theorem State.ReturnsWithin.whenInit {cursor : Word} {op : Byte} {n : Option Nat} {body : State → State} {s : State}
    (hb : s.ReturnsWithin cursor (body s)) : s.ReturnsWithin cursor (s.whenInit op n body) := by
  unfold State.whenInit
  split
  · exact hb
  · exact .of_stage rfl rfl

theorem State.ReturnsWithin.whenJob {cursor : Word} {op : Byte} {n : Option Nat} {c : JobCheck} {body : State → State}
    {s : State} (hidle : s.pos = .idle) (hb : s.ReturnsWithin cursor (body s)) :
    s.ReturnsWithin cursor (s.whenJob op n c body) := by
  cases c with
  | accept => exact hb
  | reject d => exact .of_stage rfl rfl
  | stop r => exact .of_stage hidle rfl

theorem State.ReturnsWithin.invoke {cursor : Word} {op : Byte} {body : State → State} {s t : State} (hs : s.callable)
    (h : s.invoke op body = .next t) (hb : s.invoked.ReturnsWithin cursor (body s.invoked)) :
    s.ReturnsWithin cursor t := by
  rcases State.invoke_cases h with ⟨-, ⟨-, -, rfl⟩ | ⟨-, -, rfl⟩ | ⟨hwaiting, -⟩⟩
  · exact hb
  · exact .of_stage hs.2 rfl
  · exact absurd hs.2 hwaiting

/-! The asynchronous path (41_write_paths.md R170 to R172). -/

theorem State.issuePage_returnsWithin {bytes : List Byte} (hsize : bytes.length ≤ 4) (a : Word) {s : State}
    (hidle : s.pos = .idle) : s.ReturnsWithin a (s.issuePage a bytes) := by
  rcases State.issuePage_cases a bytes s with ⟨r, -, e⟩ | ⟨-, e⟩ <;> rw [e]
  · exact .of_stage hidle rfl
  · exact ⟨hidle, fun b hb => Mem.read_writeBytes_other _ (by unfold inRange at hb; omega)⟩

theorem State.asyncBusy_returnsWithin (cursor : Word) (op : Byte) (s : State) :
    s.ReturnsWithin cursor (s.asyncBusy op) := by
  refine .of_stage ?_ (s.asyncBusy_stage op)
  unfold State.asyncBusy
  split
  · rfl
  · split <;> rfl

theorem State.asyncStep_returnsWithin (op : Byte) {s : State} (hidle : s.pos = .idle) :
    s.ReturnsWithin s.dst (s.asyncStep op) := by
  unfold State.asyncStep
  split
  · exact s.asyncBusy_returnsWithin s.dst op
  · split
    · exact .of_stage rfl rfl
    · split
      · exact .of_stage rfl rfl
      · have hsize := State.length_nextPage s.dst s.rem { s with issued := false }
        exact State.ReturnsWithin.ifSound (State.issuePage_returnsWithin (by omega) s.dst hidle) rfl rfl

theorem State.startAsync_returnsWithin (op : Byte) (dst len : Word) (src : Option Word) {s : State}
    (hidle : s.pos = .idle) : s.ReturnsWithin dst (s.startAsync op dst len src) := by
  unfold State.startAsync
  split
  · exact State.asyncStep_returnsWithin (s := s.beginAsync dst len src) op hidle
  · exact .of_stage rfl rfl

theorem State.pollResult_returnsWithin {s : State} (hidle : s.pos = .idle) : s.ReturnsWithin s.dst s.pollResult := by
  unfold State.pollResult
  split
  · exact State.asyncStep_returnsWithin _ hidle
  all_goals exact .of_stage rfl rfl

/-- Settles O48: every branch of an invocation returns, and the one page it can issue lies at its cursor. -/
theorem asyncWorkIsBounded : Obligations.AsyncWorkIsBounded := by
  intro s t i cursor hs hi hexec
  rcases hi with ⟨src, len, rfl⟩ | ⟨len, rfl⟩ | ⟨rfl, rfl⟩
  case inl | inr.inl =>
    exact State.ReturnsWithin.invoke hs hexec (.whenJob hs.2 (State.startAsync_returnsWithin _ _ _ _ hs.2))
  case inr.inr =>
    exact State.ReturnsWithin.invoke hs hexec (.whenInit (State.pollResult_returnsWithin (s := s.invoked) hs.2))

end Sys2Proof.Machine
end

section
/-! SUPPORT. The caller's memory: READ writes it under its buffer, and every other operation keeps it (42_read_compare.md R200,
20_memory.md R60). -/

namespace Sys2Proof.Machine

/-! Branches. -/

theorem State.ifSound_mem (s : State) {f : State → State} (hf : (f s).mem = s.mem) : (s.ifSound f).mem = s.mem := by
  rcases State.ifSound_cases s f with ⟨-, e⟩ | ⟨-, e⟩ <;> rw [e]
  exact hf

theorem State.whenInit_mem {op : Byte} {n : Option Nat} {body : State → State} {s : State}
    (hb : (body s).mem = s.mem) : (s.whenInit op n body).mem = s.mem := by
  unfold State.whenInit
  split
  · exact hb
  · rfl

theorem State.whenJob_mem {op : Byte} {n : Option Nat} {c : JobCheck} {body : State → State} {s : State}
    (hb : (body s).mem = s.mem) : (s.whenJob op n c body).mem = s.mem := by
  cases c with
  | accept => exact hb
  | reject d => rfl
  | stop r => rfl

theorem State.invoke_mem {op : Byte} {body : State → State} {s t : State} (h : s.invoke op body = .next t)
    (hb : ∀ u : State, (body u).mem = u.mem) : t.mem = s.mem :=
  State.invoke_view (view := State.mem) (fun _ => rfl) (fun _ _ => rfl) h hb

theorem State.issueRaw_mem {body : State → State} {s t : State} (h : s.issueRaw body = .next t)
    (hb : (body s).mem = s.mem) : t.mem = s.mem := by
  rcases State.issueRaw_cases h with ⟨-, ⟨-, rfl⟩ | ⟨-, rfl⟩⟩
  · exact hb
  · rfl

/-! Commands and pages. -/

@[simp] theorem State.writeParam_mem (k : Fin 12) (v : Byte) (s : State) : (s.writeParam k v).mem = s.mem := by
  unfold State.writeParam
  split <;> rfl

@[simp] theorem State.launch_mem (s : State) : s.launch.mem = s.mem := by
  rcases State.launch_cases s with ⟨r, -, e⟩ | ⟨c, -, -, -, -, e⟩ <;> simp [e]

@[simp] theorem State.writeStatus_mem (w : StatusWrite) (s : State) : (s.writeStatus w).mem = s.mem := by
  simp only [State.writeStatus, apply_ite State.mem, State.raise_mem, State.launch_mem, ite_self]
  rfl

@[simp] theorem State.issueCommand_mem (fcode : Byte) (len : Half) (s : State) :
    (s.issueCommand fcode len).mem = s.mem := by
  rcases State.issueCommand_cases fcode len s with ⟨-, e⟩ | ⟨-, v, ⟨r, -, e⟩ | ⟨c, l, -, e⟩⟩ <;> rw [e] <;> rfl

@[simp] theorem State.dispatchCommand_mem (op : Byte) (w : WaitPoint) (fcode : Byte) (len : Half) (s : State) :
    (s.dispatchCommand op w fcode len).mem = s.mem := by
  unfold State.dispatchCommand
  split
  · rfl
  · rw [State.ifSound_mem _ rfl, State.issueCommand_mem, State.w1c_mem]

@[simp] theorem State.issuePage_mem (a : Word) (bytes : List Byte) (s : State) : (s.issuePage a bytes).mem = s.mem := by
  rcases State.issuePage_cases a bytes s with ⟨r, -, e⟩ | ⟨-, e⟩ <;> rw [e] <;> rfl

/-! INIT (43_init_brownout.md R230). -/

@[simp] theorem State.initQueryStep_mem (s : State) : s.initQueryStep.mem = s.mem := State.dispatchCommand_mem ..

@[simp] theorem State.initOnlineStep_mem (s : State) : s.initOnlineStep.mem = s.mem := by
  simp only [State.initOnlineStep, apply_ite State.mem, State.initQueryStep_mem, State.dispatchCommand_mem, ite_self]

@[simp] theorem State.initDoneStep_mem (s : State) : s.initDoneStep.mem = s.mem := rfl

@[simp] theorem State.initReportStep_mem (s : State) : s.initReportStep.mem = s.mem := by
  simp only [State.initReportStep]
  split <;> simp [State.reportBo]

@[simp] theorem State.initCheckStep_mem (cfg : Word) (s : State) : (s.initCheckStep cfg).mem = s.mem := by
  unfold State.initCheckStep
  split <;> simp

/-! Transfers (41_write_paths.md): they read the caller's memory and write the staging buffer. -/

@[simp] theorem State.writeLoop_mem (op : Byte) (len : Word) (s : State) : (s.writeLoop op len).mem = s.mem := by
  unfold State.writeLoop
  split
  · rfl
  · rw [State.ifSound_mem _ rfl, State.issuePage_mem]

theorem State.startSync_mem (op : Byte) (dst len : Word) (src : Option Word) (s : State) :
    (s.startSync op dst len src).mem = s.mem := by
  unfold State.startSync
  split
  · rw [State.writeLoop_mem]; rfl
  · rfl

theorem State.afterPage_mem (op : Byte) (len : Word) (expired : Bool) (s : State) :
    (s.afterPage op len expired).mem = s.mem := by
  simp only [State.afterPage, apply_ite State.mem, State.finish_mem, State.signalDet_mem, State.writeLoop_mem,
    State.advance_mem, ite_self]

@[simp] theorem State.asyncBusy_mem (op : Byte) (s : State) : (s.asyncBusy op).mem = s.mem := by
  unfold State.asyncBusy
  split
  · rfl
  · split <;> rfl

@[simp] theorem State.asyncIssue_mem (n : Nat) (s : State) : (s.asyncIssue n).mem = s.mem := by
  unfold State.asyncIssue
  rw [State.ifSound_mem _ rfl, State.issuePage_mem]

@[simp] theorem State.asyncStep_mem (op : Byte) (s : State) : (s.asyncStep op).mem = s.mem := by
  simp only [State.asyncStep, apply_ite State.mem, State.asyncBusy_mem, State.finish_mem, State.asyncIssue_mem, ite_self]

theorem State.startAsync_mem (op : Byte) (dst len : Word) (src : Option Word) (s : State) :
    (s.startAsync op dst len src).mem = s.mem := by
  unfold State.startAsync
  split
  · rw [State.asyncStep_mem]; rfl
  · rfl

theorem State.pollResult_mem (s : State) : s.pollResult.mem = s.mem := by
  unfold State.pollResult
  split <;> simp

/-! READ, COMPARE, quick writes and WAIT_READY. -/

/-- The checks before the two loops end in a return or a fault, or go on. -/
theorem State.whenReadable_mem (body : State → State) (s : State) :
    (s.whenReadable body).mem = s.mem ∨ (s.whenReadable body).mem = (body s).mem := by
  unfold State.whenReadable
  split
  · exact .inl rfl
  · split
    · exact .inl rfl
    · split
      · exact .inl rfl
      · exact .inr rfl

theorem State.compareOut_mem (src buf len : Word) (s : State) : (s.compareOut src buf len).mem = s.mem := by
  unfold State.compareOut
  split <;> rfl

theorem State.copyOut_mem (src dst len : Word) (s : State) :
    (s.copyOut src dst len).mem = Mem.writeBytes s.mem dst.toNat (Mem.readBytes s.stage src.toNat len.toNat) := rfl

theorem State.quickCheckStep_mem (dst src len : Word) (w : Half) (s : State) :
    (s.quickCheckStep dst src len w).mem = s.mem := by
  simp only [State.quickCheckStep, apply_ite State.mem, State.reject_mem, State.finish_mem, ite_self]

theorem State.quickEnterStep_mem (w : Half) (s : State) : (s.quickEnterStep w).mem = s.mem := by
  simp only [State.quickEnterStep, apply_ite State.mem, State.reject_mem, State.dispatchCommand_mem, ite_self]

theorem State.waitReadyStep_mem (s : State) : s.waitReadyStep.mem = s.mem := by
  simp only [State.waitReadyStep, apply_ite State.mem, State.reject_mem, State.startWait_mem, ite_self]

/-! The end of a wait, and a poll. -/

theorem State.commandEnd_mem {op : Byte} {expired : Bool} {k : Status → State → State} {s : State}
    (hk : ∀ (st : Status) (u : State), (k st u).mem = u.mem) : (s.commandEnd op expired k).mem = s.mem := by
  simp only [State.commandEnd, apply_ite State.mem, hk, State.signalDet_mem, ite_self]

theorem State.afterInitOnline_mem (st : Status) (s : State) : (s.afterInitOnline st).mem = s.mem := by
  simp only [State.afterInitOnline, apply_ite State.mem, State.initQueryStep_mem, State.finish_mem, ite_self]

theorem State.afterInitQuery_mem (st : Status) (s : State) : (s.afterInitQuery st).mem = s.mem := by
  simp only [State.afterInitQuery, apply_ite State.mem, State.initReportStep_mem, State.finish_mem, ite_self]

theorem State.afterInitMaint_mem (st : Status) (s : State) : (s.afterInitMaint st).mem = s.mem := by
  simp only [State.afterInitMaint, apply_ite State.mem, State.dispatchCommand_mem, State.finish_mem, ite_self]

theorem State.afterInitRecheck_mem (st : Status) (s : State) : (s.afterInitRecheck st).mem = s.mem := by
  simp only [State.afterInitRecheck, apply_ite State.mem, State.initDoneStep_mem, State.finish_mem, ite_self]

theorem State.afterQuickEnter_mem (st : Status) (s : State) : (s.afterQuickEnter st).mem = s.mem := by
  simp only [State.afterQuickEnter, apply_ite State.mem, State.dispatchCommand_mem, State.finish_mem, ite_self]

theorem State.afterQuickFallback_mem (st : Status) (s : State) : (s.afterQuickFallback st).mem = s.mem := by
  simp only [State.afterQuickFallback, apply_ite State.mem, State.finish_mem, ite_self]

theorem State.afterQuickExit_mem (st : Status) (s : State) : (s.afterQuickExit st).mem = s.mem := by
  simp only [State.afterQuickExit, apply_ite State.mem, State.finish_mem, ite_self]

theorem State.afterReady_mem (op : Byte) (expired : Bool) (s : State) : (s.afterReady op expired).mem = s.mem := by
  unfold State.afterReady
  split <;> rfl

@[simp] theorem State.afterWait_mem (op : Byte) (w : WaitPoint) (expired : Bool) (s : State) :
    (s.afterWait op w expired).mem = s.mem := by
  cases w with
  | dispatched => exact State.commandEnd_mem fun _ _ => rfl
  | initOnline => exact State.commandEnd_mem State.afterInitOnline_mem
  | initQuery => exact State.commandEnd_mem State.afterInitQuery_mem
  | initMaint => exact State.commandEnd_mem State.afterInitMaint_mem
  | initRecheck => exact State.commandEnd_mem State.afterInitRecheck_mem
  | quickEnter => exact State.commandEnd_mem State.afterQuickEnter_mem
  | quickFallback => exact State.commandEnd_mem State.afterQuickFallback_mem
  | quickExit => exact State.commandEnd_mem State.afterQuickExit_mem
  | page len => exact State.afterPage_mem op len expired s
  | ready => exact State.afterReady_mem op expired s

theorem State.sequencerStep_mem (s : State) : s.sequencerStep.mem = s.mem := by
  unfold State.sequencerStep
  split
  · rfl
  · unfold State.pollIteration
    split
    · split
      · rfl
      · split <;> simp
    · simp

/-! The controller's step, and what is no instruction. -/

theorem State.completeCommand_mem (c : Command) (len : Half) (d : FcDraw) (s : State) :
    (s.completeCommand c len d).mem = s.mem := by
  cases c with
  | setEee =>
    simp only [State.completeCommand, State.completeSetEee]
    split <;> rfl
  | query =>
    obtain ⟨v, e⟩ := State.completeQuery_eq d s
    rw [State.completeCommand, e]
  | setQuick => rfl
  | complete => rfl

theorem State.failCommand_mem (c : Command) (d : FcDraw) (s : State) : (s.failCommand c d).mem = s.mem := by
  cases c with
  | query =>
    obtain ⟨v, e⟩ := State.failQuery_eq d s
    rw [State.failCommand, e]
  | setEee | setQuick | complete => rfl

theorem State.completeWork_mem (d : FcDraw) (s : State) : (s.completeWork d).mem = s.mem := by
  unfold State.completeWork
  split
  · rfl
  · split
    · exact State.completeCommand_mem ..
    · exact State.failCommand_mem ..
  · split
    · unfold State.completePage
      split <;> rfl
    · rfl

theorem State.fcComplete_mem (d : FcDraw) (s : State) : (s.fcComplete d).mem = s.mem := by
  unfold State.fcComplete
  split
  · exact s.completeWork_mem d
  · rfl

theorem State.callbackBreach_mem (how : CallbackBreach) (s : State) : (s.callbackBreach how).mem = s.mem := by
  unfold State.callbackBreach
  split
  · rfl
  · split <;> rfl

theorem State.cpuLoad_mem {a : Word} {n : Nat} {s t : State} (h : s.cpuLoad a n = .next t) : t.mem = s.mem := by
  unfold State.cpuLoad at h
  split at h
  · cases h; rfl
  · split at h
    · split at h
      · cases h; rfl
      · cases h
    · split at h
      · cases h
      · cases h; rfl

theorem State.storeRegister_mem {off : Nat} {v : Byte} {s t : State} (h : s.storeRegister off v = .next t) :
    t.mem = s.mem := by
  unfold State.storeRegister at h
  split at h
  · cases h; simp
  · split at h
    · cases h; simp
    · cases h

/-- A store of the CPU from outside the block keeps the caller's memory or writes its bytes there. -/
theorem State.cpuStore_mem {a : Word} {data : List Byte} {s t : State} (h : s.cpuStore a data = .next t) :
    t.mem = s.mem ∨ t.mem = Mem.writeBytes s.mem a.toNat data := by
  unfold State.cpuStore at h
  split at h
  · cases h; exact .inl rfl
  · split at h
    · split at h
      · exact .inl (State.storeRegister_mem h)
      · cases h
    · split at h
      · cases h
      · cases h; exact .inr rfl

end Sys2Proof.Machine
end

section
/-! SUPPORT. Who writes the caller's memory: READ and the CPU from outside the block, each under the bytes it names
(42_read_compare.md R200). -/

namespace Sys2Proof.Machine

/-! Every instruction. -/

/-- INIT and the CRC operations, which read a configuration set in the caller's memory, keep it. -/
theorem exec_mem_of_beforeInit {i : Instr} (hcrc : beforeInit i = true) {s t : State} (h : exec i s = .next t) :
    t.mem = s.mem := by
  cases i with
  | init cfg =>
    refine State.invoke_mem (show execInit cfg s = .next t from h) fun u => ?_
    simp only [apply_ite State.mem, State.reject_mem, State.raise_mem, State.initCheckStep_mem, State.checkCfg_mem, ite_self]
  | crcReset => exact State.invoke_mem (show execCrcReset s = .next t from h) fun _ => rfl
  | crcFold8 b => exact State.invoke_mem (show execCrcFold8 b s = .next t from h) fun _ => rfl
  | crcFold16 x => exact State.invoke_mem (show execCrcFold16 x s = .next t from h) fun _ => rfl
  | crcFinalize => exact State.invoke_mem (show execCrcFinalize s = .next t from h) fun _ => rfl
  | crcCheckCfg cfg =>
    refine State.invoke_mem (show execCrcCheckCfg cfg s = .next t from h) fun u => ?_
    simp only [apply_ite State.mem, State.raise_mem, State.finish_mem, State.checkCfg_mem, ite_self]
  | _ => cases hcrc

theorem execRoutineLoad_mem {kind : Byte} {s t : State} (h : execRoutineLoad kind s = .next t) : t.mem = s.mem := by
  refine State.invoke_mem h fun u => State.whenInit_mem ?_
  split <;> rfl

/-- Every instruction but READ keeps the caller's memory. -/
theorem exec_mem {i : Instr} (hread : ∀ src dst len, i ≠ .read src dst len) {s t : State} (h : exec i s = .next t) :
    t.mem = s.mem := by
  cases i with
  | read src dst len => exact absurd rfl (hread src dst len)
  | init | crcReset | crcFold8 | crcFold16 | crcFinalize | crcCheckCfg => exact exec_mem_of_beforeInit rfl h
  | writeS | eraseS => exact State.invoke_mem h fun u => State.whenJob_mem (State.startSync_mem ..)
  | writeA | eraseA => exact State.invoke_mem h fun u => State.whenJob_mem (State.startAsync_mem ..)
  | poll => exact State.invoke_mem h fun u => State.whenInit_mem u.pollResult_mem
  | compare =>
    exact State.invoke_mem h fun u =>
      State.whenJob_mem ((State.whenReadable_mem _ u).elim id (·.trans (State.compareOut_mem ..)))
  | quickCheck => exact State.invoke_mem h fun u => State.whenInit_mem (State.quickCheckStep_mem ..)
  | quickEnter => exact State.invoke_mem h fun u => State.whenInit_mem (State.quickEnterStep_mem ..)
  | waitReady => exact State.invoke_mem h fun u => State.whenInit_mem u.waitReadyStep_mem
  | quickExit | dispatch => exact State.invoke_mem h fun u => State.whenInit_mem (State.dispatchCommand_mem ..)
  | routineLoad => exact execRoutineLoad_mem h
  | routineUnload => exact State.invoke_mem h fun u => State.whenInit_mem rfl
  | setEee | setQuick | query | complete => exact State.issueRaw_mem h (State.issueCommand_mem ..)
  | page1 | page4 => exact State.issueRaw_mem h (State.issuePage_mem ..)

/-- READ keeps the memory or copies a run of `len` bytes to its buffer. -/
theorem exec_read_mem {src dst len : Word} {s t : State} (h : exec (.read src dst len) s = .next t) :
    t.mem = s.mem ∨ t.mem = Mem.writeBytes s.mem dst.toNat (Mem.readBytes s.stage src.toNat len.toNat) := by
  rcases State.invoke_cases (show execRead src dst len s = .next t from h) with
    ⟨-, ⟨-, -, rfl⟩ | ⟨-, -, rfl⟩ | ⟨-, rfl⟩⟩
  · cases State.checkJob src len (some dst) { s with ret := none } with
    | accept => exact State.whenReadable_mem (State.copyOut src dst len) { s with ret := none }
    | reject d => exact .inl rfl
    | stop r => exact .inl rfl
  · exact .inl rfl
  · exact .inl rfl

/-! Every step. -/

/-- A byte that reads otherwise after a run was written lies in the run. -/
theorem inRange_of_written {m m' : Mem} {a b : Nat} {bs : List Byte} (h : m' = m ∨ m' = Mem.writeBytes m a bs)
    (hne : Mem.read m' b ≠ Mem.read m b) : inRange b a bs.length := by
  rcases h with rfl | rfl
  · exact absurd rfl hne
  · by_contra hout
    exact hne (Mem.read_writeBytes_other m (by unfold inRange at hout; omega))

/-- A step that goes on runs a READ, is a store of the CPU, or keeps the caller's memory; of a reset that is log 42. -/
theorem step_mem_cases {s t : State} (h : step s = .next t) :
    (∃ w rest src dst len, s.inputs = .issue w :: rest ∧ decode s.par w = .ok (.read src dst len) ∧
      exec (.read src dst len) { s with inputs := rest } = .next t) ∨
    (∃ addr data rest, s.inputs = .store addr data :: rest ∧ State.cpuStore addr data { s with inputs := rest } = .next t) ∨
    t.mem = s.mem := by
  cases step_moves h with
  | reset _ => exact .inr (.inr rfl)
  | exhausted _ _ => exact .inr (.inr s.sequencerStep_mem)
  | sequencer _ _ => exact .inr (.inr (State.sequencerStep_mem _))
  | controller _ _ => exact .inr (.inr (State.fcComplete_mem _ _))
  | @instruction w rest i _ _ hin hdec hexec =>
    by_cases hread : ∃ src dst len, i = .read src dst len
    · obtain ⟨src, dst, len, rfl⟩ := hread
      exact .inl ⟨w, rest, src, dst, len, hin, hdec, hexec⟩
    · exact .inr (.inr (exec_mem (s := { s with inputs := rest }) (fun src dst len e => hread ⟨src, dst, len, e⟩) hexec))
  | undecoded _ _ _ => exact .inr (.inr rfl)
  | breach _ _ => exact .inr (.inr (State.callbackBreach_mem _ _))
  | @load _ _ rest _ _ _ hload => exact .inr (.inr (State.cpuLoad_mem (s := { s with inputs := rest }) hload))
  | store _ hin hstore => exact .inr (.inl ⟨_, _, _, hin, hstore⟩)

/-- Settles O15: READ and the CPU write one run of bytes each, and no other step writes the caller's memory. -/
theorem onlyReadWritesCallerMemory : Obligations.OnlyReadWritesCallerMemory := by
  intro s t b h hne
  rcases step_mem_cases h with ⟨w, rest, src, dst, len, hin, hdec, hexec⟩ | ⟨addr, data, rest, hin, hstore⟩ | hkept
  · have hrange := inRange_of_written (exec_read_mem hexec) hne
    rw [Mem.length_readBytes] at hrange
    exact .inl ⟨w, rest, src, dst, len, hin, hdec, hrange⟩
  · exact .inr ⟨addr, data, rest, hin, inRange_of_written (State.cpuStore_mem hstore) hne⟩
  · exact absurd (by rw [hkept]) hne

end Sys2Proof.Machine
end

section
/-! SUPPORT. READ of an accepted request while READY = 1 (42_read_compare.md R200). -/

namespace Sys2Proof.Machine

/-- READ's checks behind CHECK_JOB, all passed or the first that fails. -/
theorem State.whenReadable_online {s : State} (h : s.mode ≠ .offline) (body : State → State) :
    s.whenReadable body =
      if s.inflight ≠ .none then s.raise .readWhileBusy
      else if s.quick = true then s.raise .readInQuick
      else body s := by
  simp only [State.whenReadable, State.busy_iff]
  exact if_neg (by simp [State.ready_eq, h])

theorem exec_read_of_accepted {s : State} {src dst len : Word} (hs : s.callable) (hjob : s.accepts src len)
    (hbuffer : s.bufferOk dst len) (honline : s.mode ≠ .offline) :
    exec (.read src dst len) s = .next (
      if s.inflight ≠ .none then s.faultedWith .readWhileBusy
      else if s.quick = true then s.faultedWith .readInQuick
      else s.invoked.copyOut src dst len) :=
  calc exec (.read src dst len) s
      = .next (s.invoked.whenReadable (State.copyOut src dst len)) :=
        State.invoke_accepted (op := 0x07#8) hs rfl hjob (State.bufferOk_of_some hbuffer) none _
    _ = _ := congrArg _ (State.whenReadable_online (s := s.invoked) honline _)

/-- What a memory reads as after bytes of another were copied into it. -/
theorem Mem.read_copied {m : Mem} (h : Mem.wf m) (source : Mem) (src dst n b : Nat) :
    Mem.read (Mem.writeBytes m dst (Mem.readBytes source src n)) b =
      if inRange b dst n then Mem.read source (src + (b - dst)) else Mem.read m b := by
  split
  · next hb =>
    obtain ⟨i, rfl⟩ := Nat.exists_eq_add_of_le hb.1
    rw [Mem.read_writeBytes_inside h (by rw [Mem.length_readBytes]; omega), Mem.getElem_readBytes, Nat.add_sub_cancel_left]
  · next hb => exact Mem.read_writeBytes_other m (by rw [Mem.length_readBytes]; omega)

/-- The copy loop changes the memory and returns; it never waited. -/
theorem State.copyOut_eq {s : State} (hidle : s.pos = .idle) (src dst len : Word) :
    s.copyOut src dst len = { s with mem := (s.copyOut src dst len).mem, ret := some ⟨.ok, none⟩ } :=
  State.finish_of_idle (s := { s with mem := (s.copyOut src dst len).mem }) hidle .ok none

/-- Settles O50: the checks decide, and the loop copies byte by byte. -/
theorem readCopiesTheRange : Obligations.ReadCopiesTheRange := by
  intro s src dst len hs hjob hbuffer honline
  rw [exec_read_of_accepted hs hjob hbuffer honline]
  split
  · rfl
  · split
    · rfl
    · intro hmem
      exact ⟨_, rfl, State.copyOut_eq (s := s.invoked) hs.2 src dst len, Mem.read_copied hmem s.stage _ _ _⟩

end Sys2Proof.Machine
end

section
/-! SUPPORT. The commands of INIT: what each launch, each error-free completion and each failure leaves (43_init_brownout.md
R230, R235). -/

namespace Sys2Proof.Machine

/-! The launch of a command that has no length of its own (40_dispatch_polling.md R122, R128, R129). -/

/-- The command `c` is in flight with the flags clear, and the operation `op` waits for it with its budget loaded. -/
def State.launched (op : Byte) (w : WaitPoint) (c : Command) (s : State) : State :=
  { s with
    coll := false, accerr := false, pviol := false, cstat := false
    cmdparam := s.slotsFor (c.code s.par) 0#16, inflight := .cmd c (s.lenFor c 0#16)
    tmo := s.par.timeout.getD s.tmo, pos := .waiting op w }

theorem State.dispatchCommand_launched {s : State} {c : Command} (hf : s.fault = none) (hwf : s.par.wf = true)
    (hidle : s.inflight = .none) (hc : c ≠ .setQuick) (op : Byte) (w : WaitPoint) :
    s.dispatchCommand op w (c.code s.par) 0#16 = s.launched op w c := by
  rw [State.dispatchCommand_command hwf hf (s.not_busy_iff.mpr hidle), if_neg fun h => hc h.1, State.w1c_eq]
  rfl

/-! The invocation (43_init_brownout.md R230). -/

/-- INIT past its checks: `seq.init` is UNINIT and the configuration's checksum is in `crc.sr`. -/
def State.initStarted (cfg : Word) (s : State) : State :=
  { s with ret := none, crcSr := crcOfItems s.par.crcInit (s.cfgItems cfg), initDone := false }

theorem exec_init_of_valid {s : State} {cfg : Word} (hs : s.callable) (hcfg : cfg ≠ 0#32)
    (hbudget : s.par.timeout ≠ some 0#32) (hquick : s.quick = false) (hresult : s.result ≠ .pending)
    (hcrc : (crcOfItems s.par.crcInit (s.cfgItems cfg)).setWidth 16 = s.cfgStored cfg) :
    exec (.init cfg) s = .next (s.initStarted cfg).initOnlineStep := by
  have hmatches : (s.invoked.checkCfg cfg).cfgMatches cfg = true := beq_iff_eq.mpr hcrc
  rw [exec, execInit, State.invoke_of_callable hs rfl, if_neg hcfg, if_neg hbudget,
    if_neg (by simp [hquick, hresult]), State.initCheckStep]
  exact congrArg _ (if_pos hmatches)

/-- Settles O29: behind its checks INIT dispatches SET_EEE or QUERY, as READY has it. -/
theorem initLaunchesItsFirstCommand : Obligations.InitLaunchesItsFirstCommand := by
  intro s cfg hs hwf hcfg hbudget hquick hresult hcrc
  rw [exec_init_of_valid hs hcfg hbudget hquick hresult hcrc]
  have hlaunch {c : Command} (w : WaitPoint) (hidle : s.inflight = .none) (hc : c ≠ .setQuick) :
      (s.initStarted cfg).dispatchCommand 0x01#8 w (c.code s.par) 0#16 = (s.initStarted cfg).launched 0x01#8 w c :=
    State.dispatchCommand_launched (s := s.initStarted cfg) hs.1 hwf hidle hc _ _
  have hready : (s.initStarted cfg).ready = decide (s.mode ≠ .offline) := State.ready_eq _
  split
  · next hbusy =>
    have hrefused (w : WaitPoint) (fcode : Byte) := State.dispatchCommand_busy (s := s.initStarted cfg)
      (s.busy_iff.mpr hbusy) 0x01#8 w fcode 0#16
    rw [State.initOnlineStep, State.initQueryStep, hrefused, hrefused, ite_self]
    rfl
  · next hidle =>
    rw [not_not] at hidle
    split
    · next hoffline =>
      rw [State.initOnlineStep, if_neg (by simp [hready, hoffline])]
      exact congrArg _ (hlaunch (c := .setEee) .initOnline hidle nofun)
    · next honline =>
      rw [State.initOnlineStep, if_pos (by simp [hready, honline])]
      exact congrArg _ (hlaunch (c := .query) .initQuery hidle nofun)

/-! A command that fails (43_init_brownout.md R235). -/

theorem State.commandEnd_of_flags (op : Byte) (k : Status → State → State) (s : State) :
    s.commandEnd op false k = if s.inError then k .failed s else k .ok s := by
  cases h : s.inError <;> simp [State.commandEnd, State.flagCheck, h]

/-- A command of INIT that completed with an error, whichever it was. -/
theorem State.afterWait_init_failed {s : State} {w : WaitPoint} (hw : w ∈ initWaits) (herr : s.inError = true)
    (op : Byte) : s.afterWait op w false = s.finish .notReady none := by
  simp only [List.mem_cons, List.not_mem_nil, or_false] at hw
  rcases hw with rfl | rfl | rfl | rfl <;>
  · rw [State.afterWait, State.commandEnd_of_flags, if_pos herr]
    rfl

/-- A command of INIT whose budget has run out: NOT_READY and one event, and no transfer is given up. -/
theorem State.timedOut_init {s : State} {w : WaitPoint} (hw : w ∈ initWaits) (op : Byte) :
    s.timedOut op w = { s with pos := .idle, det := s.detWith op .timeout, ret := some ⟨.notReady, none⟩ } := by
  simp only [List.mem_cons, List.not_mem_nil, or_false] at hw
  rcases hw with rfl | rfl | rfl | rfl <;> simp [State.timedOut, State.timeoutReturn]

/-- Settles O31: the poll that finds the command failed, and the poll that uses up the budget. -/
theorem initCommandFailure : Obligations.InitCommandFailure := by
  intro s w rest hf hpos hw hin
  refine ⟨fun hidle herr => ?failed, fun hbusy ht hlast => ?expired⟩
  case failed =>
    rw [step_polls hf hpos hin, State.pollIteration_idle (s := { s with inputs := rest }) hidle,
      State.afterWait_init_failed (s := { s with inputs := rest }) hw herr]
    rfl
  case expired =>
    have hwait : s.Awaits 0x01#8 w := ⟨hf, hpos, hbusy⟩
    have hspent : s.tmoAfter 1 = 0#32 := State.tmoAfter_of_ge ht hlast
    have hcalls : s.callbacks + (if s.par.callback then 1 else 0) =
        if s.par.callback then s.callbacks + 1 else s.callbacks := by split <;> rfl
    rw [hwait.step_eq hin, if_pos ⟨ht, hlast⟩, State.timedOut_init hw, State.polled, hspent, hcalls]
    rfl

end Sys2Proof.Machine
end

section
/-! SUPPORT. INIT whose commands all complete without error, from its invocation to its return (43_init_brownout.md R240 to
R242). -/

namespace Sys2Proof.Machine

/-! A command of INIT, completed without error and polled. -/

/-- The controller would take a command. -/
structure State.MayDispatch (s : State) : Prop where
  sound : s.fault = none
  wf : s.par.wf = true
  idle : s.inflight = .none

/-- CMDPARAM holds the results of a QUERY of this state (40_dispatch_polling.md R142, R143). -/
def State.QueryShows (v : Vector Byte 12) (s : State) : Prop :=
  v[s.par.slotBo] = boValue s.par s.boLatch ∧ ((∀ k ∈ s.par.slotPend, v[k] = 0#8) ↔ s.pend = 0)

/-- What a command of INIT does outside CMDPARAM, SET_EEE while offline alone (40_dispatch_polling.md R140, R144). -/
def State.initEffect (c : Command) (d : FcDraw) (s : State) : State :=
  match c with
  | .setEee => { s with mode := .normal, stage := s.nv }
  | .complete => { s with pend := d.pend }
  | .setQuick | .query => s

@[simp] theorem State.initEffect_query (d : FcDraw) (s : State) : s.initEffect .query d = s := rfl

/-- INIT reads CC = 1 at the wait `w`, the flags clear and `v` in CMDPARAM. -/
def State.answered (w : WaitPoint) (v : Vector Byte 12) (rest : List Input) (s : State) : State :=
  { s with
    coll := false, accerr := false, pviol := false, cstat := false, cmdparam := v, inflight := .none
    tmo := s.par.timeout.getD s.tmo, pos := .waiting 0x01#8 w, inputs := rest }

theorem State.MayDispatch.answered {s : State} (h : s.MayDispatch) (w : WaitPoint) (v : Vector Byte 12)
    (rest : List Input) : (s.answered w v rest).MayDispatch := ⟨h.sound, h.wf, rfl⟩

theorem State.answered_answered (w w' : WaitPoint) (v v' : Vector Byte 12) (between rest : List Input) (s : State) :
    (s.answered w v between).answered w' v' rest = s.answered w' v' rest := by
  simp only [State.answered, getD_getD_self]

theorem step_polls_answered {s : State} (hf : s.fault = none) (w : WaitPoint) (v : Vector Byte 12) (rest : List Input) :
    step (s.answered w v (.seqStep :: rest)) = .next ((s.answered w v rest).afterWait 0x01#8 w false) :=
  (step_polls (s := s.answered w v (.seqStep :: rest)) hf rfl rfl).trans
    (congrArg _ (State.pollIteration_idle (s := s.answered w v rest) rfl _ _))

/-- The controller completes the command, and the poll finds it complete. -/
theorem State.MayDispatch.run_command {s : State} (h : s.MayDispatch) {c : Command} {d : FcDraw} {rest : List Input}
    (hc : c ≠ .setQuick) (hmode : c = .setEee → s.mode = .offline) (hd : d.clean = true) (w : WaitPoint)
    (hin : s.inputs = [.fcComplete d, .seqStep] ++ rest) :
    ∃ v, (c = .query → s.QueryShows v) ∧
      Sys2Proof.core.run 2 (s.dispatchCommand 0x01#8 w (c.code s.par) 0#16) =
        .next (((s.initEffect c d).answered w v rest).afterWait 0x01#8 w false) := by
  rw [State.dispatchCommand_launched h.sound h.wf h.idle hc]
  obtain ⟨heee, -, -, -, hquery, hcomplete⟩ := commandsComplete (s.launched 0x01#8 w c) c _ d (.seqStep :: rest) h.sound
    h.wf hin rfl hd
  have hrun {u : State} (hu : u.fault = none) {v : Vector Byte 12}
      (hstep : step (s.launched 0x01#8 w c) = .next (u.answered w v (.seqStep :: rest))) :
      Sys2Proof.core.run 2 (s.launched 0x01#8 w c) = .next ((u.answered w v rest).afterWait 0x01#8 w false) :=
    (core_run_succ hstep 1).trans (core_run_succ (step_polls_answered hu w v rest) 0)
  cases c with
  | setQuick => exact absurd rfl hc
  | setEee => exact ⟨_, nofun, hrun (u := s.initEffect .setEee d) h.sound (heee rfl (hmode rfl))⟩
  | complete => exact ⟨_, nofun, hrun (u := s.initEffect .complete d) h.sound (hcomplete rfl)⟩
  | query =>
    obtain ⟨t, hstep, ht, hbo, hpend, -⟩ := hquery rfl
    rw [ht] at hstep
    exact ⟨_, fun _ => ⟨hbo, hpend⟩, hrun (u := s) h.sound hstep⟩

/-! The results of a QUERY as INIT reads them (43_init_brownout.md R232, R236). -/

theorem decodeBo_boValue {p : Params} (h : p.wf = true) (c : BoCode) : decodeBo p (boValue p c) = .code c := by
  have hcodes := Params.wf_brownOut h
  simp only [List.nodup_cons, List.mem_cons, List.not_mem_nil, not_or, or_false] at hcodes
  obtain ⟨⟨hmaint, hquick, hnormal⟩, ⟨hquick', hnormal'⟩, hnormal'', -⟩ := hcodes
  cases c <;>
    simp [decodeBo, boValue, Ne.symm hmaint, Ne.symm hquick, Ne.symm hnormal, Ne.symm hquick', Ne.symm hnormal',
      Ne.symm hnormal'']

theorem State.QueryShows.decodeBo {s : State} (h : s.QueryShows s.cmdparam) (hwf : s.par.wf = true) :
    decodeBo s.par (s.slot s.par.slotBo) = .code s.boLatch :=
  (congrArg (Machine.decodeBo s.par) h.1).trans (decodeBo_boValue hwf _)

theorem State.QueryShows.resPendSet {s : State} (h : s.QueryShows s.cmdparam) : s.resPendSet = (s.pend != 0) := by
  have hzero : s.resPendSet = false ↔ s.pend = 0 := by
    rw [← h.2]
    simp [State.resPendSet, State.slot]
  cases hpend : s.resPendSet with
  | false => simp [hzero.mp hpend]
  | true => simp [← hzero, hpend]

/-! I4 (43_init_brownout.md R233, R237). -/

theorem brownOutEvents_code (c : BoCode) :
    brownOutEvents (.code c) =
      [⟨.boMaint, c == .maint⟩, ⟨.boQuick, c == .quick⟩, ⟨.boNormal, c == .normal⟩, ⟨.boUnknown, false⟩] := by
  cases c <;> rfl

theorem State.reportBo_eq (bo : BoSeen) (s : State) :
    s.reportBo bo = { s with dem := if s.par.dem then s.dem ++ brownOutEvents bo else s.dem } := by
  cases hdem : s.par.dem <;> simp [State.reportBo, State.signalDem, brownOutEvents, hdem]

/-- The latched code is decoded and reported. -/
def State.reported (s : State) : State :=
  { s with
    boSeen := .code s.boLatch
    dem := if s.par.dem then s.dem ++ brownOutEvents (.code s.boLatch) else s.dem }

/-- The code or the pending work asks for maintenance (43_init_brownout.md R233). -/
def State.needsMaint (s : State) : Bool := s.boLatch != .none || s.pend != 0

theorem State.initReportStep_eq {s : State} (hwf : s.par.wf = true) (h : s.QueryShows s.cmdparam) :
    s.initReportStep =
      if s.needsMaint then s.reported.dispatchCommand 0x01#8 .initMaint s.par.fcComplete 0#16
      else s.reported.initDoneStep := by
  have hmaint : (BoSeen.code s.boLatch ≠ .code .none ∨ (s.pend != 0) = true) ↔ s.needsMaint = true := by
    simp [State.needsMaint]
  simp only [State.initReportStep, h.decodeBo hwf, h.resPendSet, State.reportBo_eq, hmaint]
  rfl

/-! From I5 to the end (43_init_brownout.md R234, R241). -/

/-- INIT ends with OK, or with NOT_READY. -/
def State.initEnd (good : Bool) (s : State) : State := if good then s.initDoneStep else s.finish .notReady none

theorem State.initEnd_eq {s : State} (hinit : s.initDone = false) (hquick : s.quick = false) (good : Bool) :
    s.initEnd good = { s with
      initDone := good, result := if good then .idle else s.result, issued := if good then false else s.issued
      pos := .idle, ret := some ⟨if good then .ok else .notReady, none⟩ } := by
  cases good <;> simp [State.initEnd, State.initDoneStep, State.finish, hinit, hquick]

theorem State.afterInitRecheck_ok {s : State} (h : s.QueryShows s.cmdparam) :
    s.afterInitRecheck .ok = s.initEnd (s.pend == 0) := by
  simp [State.afterInitRecheck, State.initEnd, h.resPendSet]

/-- COMPLETE and the second QUERY. -/
theorem State.MayDispatch.run_maintenance {s : State} (h : s.MayDispatch) {dMaint dAgain : FcDraw} {rest : List Input}
    (hmaint : dMaint.clean = true) (hagain : dAgain.clean = true)
    (hin : s.inputs = [.fcComplete dMaint, .seqStep] ++ ([.fcComplete dAgain, .seqStep] ++ rest)) :
    ∃ v, (s.initEffect .complete dMaint).QueryShows v ∧
      Sys2Proof.core.run 4 (s.dispatchCommand 0x01#8 .initMaint s.par.fcComplete 0#16) =
        .next (((s.initEffect .complete dMaint).answered .initRecheck v rest).initEnd (dMaint.pend == 0)) := by
  obtain ⟨v, -, hfirst⟩ := h.run_command (c := .complete) nofun nofun hmaint .initMaint hin
  have hdone : (s.initEffect .complete dMaint).MayDispatch := ⟨h.sound, h.wf, h.idle⟩
  obtain ⟨v', hshows, hsecond⟩ :=
    (hdone.answered .initMaint v _).run_command (c := .query) nofun nofun hagain .initRecheck rfl
  refine ⟨v', hshows rfl, (run_add (M := Sys2Proof.core) hfirst 2).trans (hsecond.trans (congrArg _ ?_))⟩
  rw [State.initEffect_query, State.answered_answered]
  exact State.afterInitRecheck_ok (s := (s.initEffect .complete dMaint).answered .initRecheck v' rest) (hshows rfl)

/-! From I3 to the end. -/

/-- The controller's steps and INIT's polls from I3 on (43_init_brownout.md R240). -/
def recoveryInputs (maint : Bool) (dQuery dMaint dAgain : FcDraw) : List Input :=
  [.fcComplete dQuery, .seqStep] ++
    (if maint then [.fcComplete dMaint, .seqStep, .fcComplete dAgain, .seqStep] else [])

/-- What I4 and I5 leave. -/
def State.recovered (dMaint : FcDraw) (s : State) : State :=
  { s.reported with pend := if s.needsMaint then dMaint.pend else s.pend }

/-- No maintenance was needed, or it left no work (43_init_brownout.md R241). -/
def State.initGood (dMaint : FcDraw) (s : State) : Bool := !s.needsMaint || dMaint.pend == 0

/-- INIT has read CC = 1 at its last wait and returned. -/
def State.InitReturns (dMaint : FcDraw) (rest : List Input) (s t : State) : Prop :=
  ∃ w v, (s.recovered dMaint).QueryShows v ∧
    t = ((s.recovered dMaint).answered w v rest).initEnd (s.initGood dMaint)

/-- The first QUERY, and I4. -/
theorem State.MayDispatch.run_query {s : State} (h : s.MayDispatch) {d : FcDraw} {rest : List Input}
    (hd : d.clean = true) (hin : s.inputs = [.fcComplete d, .seqStep] ++ rest) :
    ∃ v, s.QueryShows v ∧ Sys2Proof.core.run 2 s.initQueryStep = .next (
      if s.needsMaint then
        (s.reported.answered .initQuery v rest).dispatchCommand 0x01#8 .initMaint s.par.fcComplete 0#16
      else (s.reported.answered .initQuery v rest).initDoneStep) := by
  obtain ⟨v, hshows, hrun⟩ := h.run_command (c := .query) nofun nofun hd .initQuery hin
  exact ⟨v, hshows rfl, hrun.trans
    (congrArg _ (State.initReportStep_eq (s := s.answered .initQuery v rest) h.wf (hshows rfl)))⟩

theorem State.MayDispatch.run_recovery {s : State} (h : s.MayDispatch) {dQuery dMaint dAgain : FcDraw}
    {rest : List Input} (hquery : dQuery.clean = true) (hmaint : dMaint.clean = true) (hagain : dAgain.clean = true)
    (hin : s.inputs = recoveryInputs s.needsMaint dQuery dMaint dAgain ++ rest) :
    ∃ t, Sys2Proof.core.run (recoveryInputs s.needsMaint dQuery dMaint dAgain).length s.initQueryStep = .next t ∧
      s.InitReturns dMaint rest t := by
  rw [recoveryInputs, List.append_assoc] at hin
  obtain ⟨v, hshows, hfirst⟩ := h.run_query hquery hin
  unfold State.InitReturns State.recovered State.initGood
  cases hneeds : s.needsMaint with
  | false =>
    rw [hneeds] at hfirst
    exact ⟨_, hfirst, .initQuery, v, hshows, rfl⟩
  | true =>
    rw [hneeds] at hfirst
    have hseen : s.reported.MayDispatch := ⟨h.sound, h.wf, h.idle⟩
    obtain ⟨v', hshows', hlast⟩ := (hseen.answered .initQuery v _).run_maintenance hmaint hagain rfl
    refine ⟨_, (run_add (M := Sys2Proof.core) hfirst 4).trans hlast, .initRecheck, v', hshows', ?_⟩
    exact congrArg (State.initEnd (dMaint.pend == 0))
      (State.answered_answered _ _ _ _ _ _ (s.reported.initEffect .complete dMaint))

/-! From I2 to the end. -/

/-- Online, as I2 leaves it (43_init_brownout.md R231). -/
def State.online (s : State) : State :=
  { s with mode := if s.ready then s.mode else .normal, stage := if s.ready then s.stage else s.nv }

/-- The controller's steps and INIT's polls from I2 on (43_init_brownout.md R240). -/
def initInputs (ready maint : Bool) (dEee dQuery dMaint dAgain : FcDraw) : List Input :=
  (if ready then [] else [.fcComplete dEee, .seqStep]) ++ recoveryInputs maint dQuery dMaint dAgain

theorem State.InitReturns.of_answered {dMaint : FcDraw} {w : WaitPoint} {v : Vector Byte 12} {between rest : List Input}
    {s t : State} (h : (s.answered w v between).InitReturns dMaint rest t) : s.InitReturns dMaint rest t := by
  obtain ⟨w', v', hshows, ht⟩ := h
  exact ⟨w', v', hshows, ht.trans
    (congrArg (State.initEnd _) (State.answered_answered w w' v v' between rest (s.recovered dMaint)))⟩

theorem State.MayDispatch.run_init {s : State} (h : s.MayDispatch) {dEee dQuery dMaint dAgain : FcDraw}
    {rest : List Input} (heee : dEee.clean = true) (hquery : dQuery.clean = true) (hmaint : dMaint.clean = true)
    (hagain : dAgain.clean = true)
    (hin : s.inputs = initInputs s.ready s.needsMaint dEee dQuery dMaint dAgain ++ rest) :
    ∃ t, Sys2Proof.core.run (initInputs s.ready s.needsMaint dEee dQuery dMaint dAgain).length s.initOnlineStep =
        .next t ∧
      s.online.InitReturns dMaint rest t := by
  unfold State.initOnlineStep State.online initInputs
  rw [initInputs, List.append_assoc] at hin
  cases hready : s.ready with
  | true =>
    rw [hready] at hin
    exact h.run_recovery hquery hmaint hagain hin
  | false =>
    rw [hready] at hin
    have hoffline : s.mode = .offline := by simpa [State.ready_eq] using hready
    have honline : (s.initEffect .setEee dEee).MayDispatch := ⟨h.sound, h.wf, h.idle⟩
    obtain ⟨v, -, hfirst⟩ := h.run_command (c := .setEee) nofun (fun _ => hoffline) heee .initOnline hin
    obtain ⟨t, hrun, ht⟩ := (honline.answered .initOnline v
      (recoveryInputs s.needsMaint dQuery dMaint dAgain ++ rest)).run_recovery hquery hmaint hagain rfl
    refine ⟨t, ?_, ht.of_answered⟩
    rw [List.length_append]
    exact (run_add (M := Sys2Proof.core) hfirst _).trans hrun

/-- Settles O30: INIT starts and runs from I2 to its end, whose state is the one the table gives. -/
theorem initRecoversFromBrownOut : Obligations.InitRecoversFromBrownOut := by
  intro s cfg dEee dQuery dMaint dAgain rest hs hwf hcfg hbudget hquick hresult hcrc hidle heee hquery hmaint hagain
    maint good events hin
  have hstart : (s.initStarted cfg).MayDispatch := ⟨hs.1, hwf, hidle⟩
  have hevents : events = initInputs s.ready s.needsMaint dEee dQuery dMaint dAgain := List.append_assoc _ _ _
  rw [hevents] at hin ⊢
  obtain ⟨t, hrun, w, v, ⟨hbo, hpend⟩, rfl⟩ := hstart.run_init heee hquery hmaint hagain hin
  refine ⟨_, _, exec_init_of_valid hs hcfg hbudget hquick hresult hcrc, hrun, ?_⟩
  rw [State.initEnd_eq (s := ((s.initStarted cfg).online.recovered dMaint).answered w v rest) rfl hquick]
  refine ⟨?_, hbo, hpend⟩
  rw [hidle, hs.2, ← brownOutEvents_code]
  rfl

end Sys2Proof.Machine
end

section
/-! SUPPORT. The first step of the quick-writes operations (44_quick_writes_wait.md R270 to R272). -/

namespace Sys2Proof.Machine

/-! Behind the init check (10_state.md R41). -/

theorem State.invoke_whenInit_of_init {s : State} {op : Byte} (hs : s.callable) (hp : opPresent s.par op = true)
    (hinit : s.initDone = true) (n : Option Nat) (body : State → State) :
    s.invoke op (State.whenInit op n body) = .next (body s.invoked) := by
  rw [State.invoke_of_callable hs hp, State.whenInit_of_init (s := { s with ret := none }) hinit]
  rfl

theorem State.reject_invoked {s : State} (hidle : s.pos = .idle) (op : Byte) (c : DetCode) (n : Option Nat) :
    s.invoked.reject op c n = s.refusedWith op c n :=
  State.reject_eq_refusedWith hidle op c n

theorem State.finish_invoked {s : State} (hidle : s.pos = .idle) (st : Status) (n : Option Nat) :
    s.invoked.finish st n = { s with ret := some ⟨st, n⟩ } :=
  State.finish_of_idle (s := s.invoked) hidle st n

/-! The window (44_quick_writes_wait.md R270). -/

theorem windowOk_eq_false_iff (p : Params) (w : Half) :
    windowOk p w = false ↔ w.toNat < p.qwMin ∨ p.qwMax < w.toNat ∨ w.toNat % p.qwStep ≠ 0 := by
  simp only [windowOk, decide_eq_false_iff_not, not_and_or, not_le]

/-- With a legal window the controller refuses SET_QUICK by its mode alone (40_dispatch_polling.md R141). -/
theorem State.quickLegal_of_windowOk {s : State} {w : Half} (h : windowOk s.par w = true) :
    s.quickLegal w = decide (s.mode = .normal) := by
  rw [State.quickLegal, h, Bool.and_true]

/-! QUICK_CHECK and QUICK_ENTER. -/

/-- Settles O52: the chain of R270, check by check. -/
theorem quickCheckOrder : Obligations.QuickCheckOrder := by
  intro s dst src len w hs hquick hinit
  have hexec : exec (.quickCheck dst src len w) s = .next (s.invoked.quickCheckStep dst src len w) :=
    State.invoke_whenInit_of_init (op := 0x09#8) hs hquick hinit none _
  have hpar : s.invoked.par = s.par := rfl
  simp only [hexec, State.quickCheckStep, hpar, windowOk_eq_false_iff, State.reject_invoked hs.2,
    State.finish_invoked hs.2]
  split_ifs <;> rfl

/-- SET_QUICK dispatched with a legal window: its launch, or the fault of the mode. -/
theorem State.dispatchCommand_setQuick {s : State} {w : Half} (hf : s.fault = none) (hwf : s.par.wf = true)
    (hidle : s.inflight = .none) (hwindow : windowOk s.par w = true) (op : Byte) (at_ : WaitPoint) :
    s.dispatchCommand op at_ s.par.fcQuick w =
      if s.mode ≠ .normal then State.raise .cmdIllegalMode { s.w1c with cmdparam := s.slotsFor s.par.fcQuick w }
      else State.startWait op at_ { s.w1c with
        cmdparam := s.slotsFor s.par.fcQuick w, cstat := false, inflight := .cmd .setQuick w } := by
  have hlaunch := State.dispatchCommand_command hwf hf (s.not_busy_iff.mpr hidle) op at_ .setQuick w
  simpa only [Command.code, State.lenFor, State.quickLegal_of_windowOk hwindow, true_and, if_true,
    decide_eq_false_iff_not] using hlaunch

/-- Settles O53: the chain of R272, and the launch behind it. -/
theorem quickEnterLaunches : Obligations.QuickEnterLaunches := by
  intro s w hs hwf hquick hinit
  have hexec : exec (.quickEnter w) s = .next (s.invoked.quickEnterStep w) :=
    State.invoke_whenInit_of_init (op := 0x0A#8) hs hquick hinit none _
  have hpar : s.invoked.par = s.par := rfl
  have hactive : s.invoked.quick = s.quick := rfl
  simp only [hexec, State.quickEnterStep, hpar, hactive, windowOk_eq_false_iff, State.reject_invoked hs.2]
  split_ifs with hwindow hentered hbusy hmode
  case pos | pos => rfl
  case pos => exact congrArg _ (State.dispatchCommand_busy (s := s.invoked) (s.busy_iff.mpr hbusy) _ _ _ _)
  all_goals
    rw [← windowOk_eq_false_iff, Bool.not_eq_false] at hwindow
    have hlaunch := State.dispatchCommand_setQuick (s := s.invoked) hs.1 hwf (not_not.mp hbusy) hwindow 0x0A#8
      .quickEnter
    rw [State.w1c_eq] at hlaunch
  case pos => exact congrArg _ (hlaunch.trans (if_pos hmode))
  case neg => exact congrArg _ (hlaunch.trans (if_neg hmode))

end Sys2Proof.Machine
end

section
/-! SUPPORT. How a quick-writes operation or WAIT_READY ends its wait (44_quick_writes_wait.md R272, R274, R280). -/

namespace Sys2Proof.Machine

/-! A poll that ends the wait. -/

theorem step_polls_idle {s : State} {op : Byte} {w : WaitPoint} {rest : List Input} (hf : s.fault = none)
    (hpos : s.pos = .waiting op w) (hin : s.inputs = .seqStep :: rest) (hidle : s.inflight = .none) :
    step s = .next (State.afterWait op w false { s with inputs := rest }) := by
  rw [step_polls hf hpos hin, State.pollIteration_idle (s := { s with inputs := rest }) hidle]

/-- The poll that uses up the budget of any wait but WAIT_READY's (40_dispatch_polling.md R139). -/
theorem State.Awaits.step_expires {op : Byte} {w : WaitPoint} {s : State} {rest : List Input} (h : s.Awaits op w)
    (hw : w ≠ .ready) (ht : s.par.timeout ≠ none) (hlast : s.tmo.toNat ≤ 1) (hin : s.inputs = .seqStep :: rest) :
    step s = .next { s with
      inputs := rest, pos := .idle, ret := some (s.timeoutReturn w), tmo := 0#32, det := s.detWith op .timeout
      callbacks := if s.par.callback then s.callbacks + 1 else s.callbacks } := by
  have hspent : s.tmoAfter 1 = 0#32 := State.tmoAfter_of_ge ht hlast
  have hcalls : s.callbacks + (if s.par.callback then 1 else 0) =
      if s.par.callback then s.callbacks + 1 else s.callbacks := by split <;> rfl
  have hreturn : (s.polled 1 rest).timeoutReturn w = s.timeoutReturn w := by cases w <;> rfl
  rw [h.step_eq hin, if_pos ⟨ht, hlast⟩, State.timedOut, hreturn, if_neg hw, if_neg fun hr => hw hr.1, State.polled, hspent,
    hcalls]
  rfl

/-! QUICK_ENTER (44_quick_writes_wait.md R272). -/

theorem State.afterWait_quickEnter (op : Byte) (s : State) :
    s.afterWait op .quickEnter false = if s.inError then s.afterQuickEnter .failed else s.afterQuickEnter .ok :=
  State.commandEnd_of_flags _ _ _

/-- A SET_QUICK that failed, CC = 1: the fallback is launched. -/
theorem State.afterQuickEnter_failed {s : State} (hf : s.fault = none) (hwf : s.par.wf = true)
    (hidle : s.inflight = .none) : s.afterQuickEnter .failed = s.launched 0x0A#8 .quickFallback .setEee := by
  rw [State.afterQuickEnter, if_neg nofun, if_neg (by simp [s.busy_iff, hidle])]
  exact State.dispatchCommand_launched (c := .setEee) hf hwf hidle nofun _ _

theorem State.afterWait_quickFallback (op : Byte) (s : State) :
    s.afterWait op .quickFallback false = s.finish (if s.inError then .failed else .fellBack) none := by
  rw [State.afterWait, State.commandEnd_of_flags]
  split <;> rfl

/-- Settles O54: the flags decide at CC = 1, the budget at CC = 0. -/
theorem quickEnterOutcomes : Obligations.QuickEnterOutcomes := by
  intro s rest hf hwf hin
  refine ⟨fun hpos hidle => ?entered, fun hpos hbusy ht hlast => ?expired, fun hpos hidle => ?fellBack⟩
  case entered =>
    have herror : State.inError { s with inputs := rest } = s.inError := rfl
    rw [step_polls_idle hf hpos hin hidle, State.afterWait_quickEnter, herror]
    split
    · next hok =>
      rw [if_neg (by simp [hok])]
      rfl
    · next hfailed =>
      rw [if_pos (by simpa using hfailed), State.afterQuickEnter_failed (s := { s with inputs := rest }) hf hwf hidle]
      rfl
  case expired =>
    rcases hpos with hpos | hpos <;> exact State.Awaits.step_expires ⟨hf, hpos, hbusy⟩ nofun ht hlast hin
  case fellBack =>
    rw [step_polls_idle hf hpos hin hidle, State.afterWait_quickFallback]
    rfl

/-! QUICK_EXIT (44_quick_writes_wait.md R274). -/

/-- `seq.quick` is left only by a SET_EEE without error. -/
theorem State.afterWait_quickExit (op : Byte) (s : State) :
    s.afterWait op .quickExit false =
      State.finish (if s.inError then .failed else .ok) none { s with quick := s.quick && s.inError } := by
  rw [State.afterWait, State.commandEnd_of_flags]
  cases herror : s.inError with
  | true => rw [Bool.and_true]; rfl
  | false => rw [Bool.and_false]; rfl

theorem exec_quickExit_of_init {s : State} (hs : s.callable) (hquick : s.par.quick = true) (hinit : s.initDone = true) :
    exec .quickExit s = .next (s.invoked.dispatchCommand 0x0B#8 .quickExit s.par.fcEee 0#16) :=
  State.invoke_whenInit_of_init (op := 0x0B#8) hs hquick hinit none _

/-- `fc.nv` after a SET_EEE without error: from quick mode the dirty bytes are committed (40_dispatch_polling.md R140). -/
def State.nvCommitted (s : State) : Mem := if s.quickMode then Mem.copyAt s.stage s.qdirty s.nv else s.nv

/-- A SET_EEE without error in any mode (40_dispatch_polling.md R140). -/
theorem State.completeSetEee_eq (s : State) :
    s.completeSetEee = { s with
      mode := .normal, stage := if s.mode = .offline then s.nv else s.stage
      qdirty := if s.quickMode then [] else s.qdirty, nv := s.nvCommitted } := by
  unfold State.completeSetEee State.nvCommitted State.quickMode
  cases s.mode <;> rfl

theorem State.read_nvCommitted {s : State} (h : Mem.wf s.nv) (b : Nat) :
    Mem.read s.nvCommitted b = if s.quickMode = true ∧ b ∈ s.qdirty then Mem.read s.stage b else Mem.read s.nv b := by
  unfold State.nvCommitted
  cases s.quickMode with
  | true => simpa using Mem.read_copyAt s.stage s.qdirty h b
  | false => simp

/-- QUICK_EXIT waits and its SET_EEE has completed without error. -/
def State.exitCompleted (rest : List Input) (s : State) : State :=
  { s with
    coll := false, accerr := false, pviol := false, cstat := false, cmdparam := s.slotsFor s.par.fcEee 0#16
    inflight := .none, tmo := s.par.timeout.getD s.tmo, mode := .normal
    stage := if s.mode = .offline then s.nv else s.stage, qdirty := if s.quickMode then [] else s.qdirty
    nv := s.nvCommitted, pos := .waiting 0x0B#8 .quickExit, inputs := rest }

theorem step_completes_quickExit {s : State} {d : FcDraw} {rest : List Input} (hf : s.fault = none)
    (hd : d.clean = true) (hin : s.inputs = .fcComplete d :: rest) :
    step (s.launched 0x0B#8 .quickExit .setEee) = .next (s.exitCompleted rest) := by
  rw [step_of_fcComplete (s := s.launched 0x0B#8 .quickExit .setEee) hf hin, State.fcComplete_command rfl hd,
    State.completeCommand, State.completeSetEee_eq]
  rfl

/-- The SET_EEE of QUICK_EXIT completes without error, and the poll finds it complete. -/
theorem State.run_quickExit {s : State} {d : FcDraw} {rest : List Input} (hf : s.fault = none) (hd : d.clean = true)
    (hin : s.inputs = [.fcComplete d, .seqStep] ++ rest) :
    Sys2Proof.core.run 2 (s.launched 0x0B#8 .quickExit .setEee) =
      .next (State.finish .ok none { s.exitCompleted rest with quick := false }) := by
  have hpoll : step (s.exitCompleted (.seqStep :: rest)) = _ := step_polls_idle hf rfl rfl rfl
  have hnoError : State.inError (s.exitCompleted rest) = false := rfl
  have hend : (s.exitCompleted rest).afterWait 0x0B#8 .quickExit false = _ := State.afterWait_quickExit _ _
  rw [hnoError, Bool.and_false] at hend
  exact (core_run_succ (step_completes_quickExit hf hd hin) 1).trans
    (core_run_succ (hpoll.trans (congrArg _ hend)) 0)

/-- Settles O55: the launch, the run to the commit, and the two ways to fail. -/
theorem quickExitCommits : Obligations.QuickExitCommits := by
  intro s rest hf hwf
  refine ⟨fun hpos hquick hinit => ⟨fun hbusy => ?busy, fun hidle => ⟨?launch, fun d hd hnv hin => ?run⟩⟩,
    fun hpos hin => ⟨fun hidle => ?polled, fun hbusy ht hlast => ?expired⟩⟩
  case busy =>
    rw [exec_quickExit_of_init ⟨hf, hpos⟩ hquick hinit,
      State.dispatchCommand_busy (s := s.invoked) (s.busy_iff.mpr hbusy)]
    rfl
  case launch =>
    rw [exec_quickExit_of_init ⟨hf, hpos⟩ hquick hinit]
    exact congrArg _ (State.dispatchCommand_launched (s := s.invoked) (c := .setEee) hf hwf hidle nofun _ _)
  case run =>
    refine ⟨_, State.run_quickExit (s := s.invoked) hf hd hin, ?_, State.read_nvCommitted hnv⟩
    rw [hidle, hpos]
    rfl
  case polled =>
    rw [step_polls_idle hf hpos hin hidle, State.afterWait_quickExit]
    rfl
  case expired => exact State.Awaits.step_expires ⟨hf, hpos, hbusy⟩ nofun ht hlast hin

/-! WAIT_READY (44_quick_writes_wait.md R280). -/

/-- Settles O56: the check of `seq.quick`, and the poll that sees CC = 1. -/
theorem waitReadyCancels : Obligations.WaitReadyCancels := by
  intro s hf
  refine ⟨fun hpos hcancel hinit => ?invoked, fun op rest hpos hidle hin => ?polled⟩
  case invoked =>
    have hexec : exec .waitReady s = .next s.invoked.waitReadyStep :=
      State.invoke_whenInit_of_init (op := 0x0C#8) ⟨hf, hpos⟩ hcancel hinit none _
    rw [hexec, State.waitReadyStep, State.reject_invoked hpos]
    split
    · next hquick => exact congrArg _ (if_pos hquick)
    · next hquick => exact congrArg _ (if_neg hquick)
  case polled =>
    rw [step_polls_idle hf hpos hin hidle]
    rfl

end Sys2Proof.Machine
end

section
/-! SUPPORT. The access routine in the RAM shadow (44_quick_writes_wait.md R285 to R287). -/

namespace Sys2Proof.Machine

/-- The shadow reads as the routine's image says, over its whole size. -/
theorem read_shadowImage {p : Params} {i : Nat} (hi : i < p.shadowSize) (k : Routine) :
    Mem.read (shadowImage p k) i = shadowByte p k i := by
  rw [shadowImage, Mem.read_ofFn, if_pos hi]

theorem shadowByte_none (p : Params) (i : Nat) :
    shadowByte p .none i = p.unloadPattern.extractLsb' (8 * (i % 4)) 8 := rfl

theorem shadowByte_of_routine {p : Params} {k : Routine} {r : RoutineImage} (hk : routineOf p k = some r) (i : Nat) :
    shadowByte p k i =
      if r.off ≤ i ∧ i < r.off + r.code.length then r.code.getD (i - r.off) 0#8
      else p.unloadPattern.extractLsb' (8 * (i % 4)) 8 := by
  rw [shadowByte, hk]
  rfl

theorem kindOf_eq_none {kind : Byte} (herase : kind ≠ 1#8) (hwrite : kind ≠ 2#8) : kindOf kind = none := by
  rw [kindOf, if_neg herase, if_neg hwrite]

theorem State.fillShadow_finish {s : State} (hidle : s.pos = .idle) (k : Routine) :
    (s.invoked.fillShadow k).finish .ok none =
      { s with shadow := shadowImage s.par k, routine := k, ret := some ⟨.ok, none⟩ } :=
  State.finish_of_idle (s := s.invoked.fillShadow k) hidle _ _

theorem exec_routineUnload_of_init {s : State} (hs : s.callable) (hload : s.par.loadOnStart = true)
    (hinit : s.initDone = true) :
    exec .routineUnload s =
      .next { s with shadow := shadowImage s.par .none, routine := .none, ret := some ⟨.ok, none⟩ } :=
  (State.invoke_whenInit_of_init (op := 0x0E#8) hs hload hinit none _).trans
    (congrArg _ (State.fillShadow_finish hs.2 .none))

theorem exec_routineLoad_of_init {s : State} (hs : s.callable) (hload : s.par.loadOnStart = true)
    (hinit : s.initDone = true) (kind : Byte) :
    exec (.routineLoad kind) s = .next (
      match kindOf kind with
      | none => s.faultedWith .operandReserved
      | some k => { s with shadow := shadowImage s.par k, routine := k, ret := some ⟨.ok, none⟩ }) := by
  refine (State.invoke_whenInit_of_init (op := 0x0D#8) hs hload hinit none _).trans (congrArg _ ?_)
  cases kindOf kind with
  | none => rfl
  | some k => exact State.fillShadow_finish hs.2 k

/-- Settles O57: the two kinds, the others, and the unload pattern alone. -/
theorem routineLoadFillsTheShadow : Obligations.RoutineLoadFillsTheShadow := by
  intro s kind hs hload hinit
  rw [exec_routineLoad_of_init hs hload hinit, exec_routineUnload_of_init hs hload hinit]
  refine ⟨fun r k hkind => ?loaded, fun herase hwrite => ?reserved, _, rfl, rfl, fun i hi => ?unloaded⟩
  case loaded =>
    obtain ⟨hk, hr⟩ : kindOf kind = some k ∧ routineOf s.par k = some r := by
      rcases hkind with ⟨rfl, rfl, rfl⟩ | ⟨rfl, rfl, rfl⟩ <;> exact ⟨rfl, rfl⟩
    rw [hk]
    exact ⟨_, rfl, rfl, fun i hi => (read_shadowImage hi k).trans (shadowByte_of_routine hr i)⟩
  case reserved => rw [kindOf_eq_none herase hwrite]
  case unloaded => exact (read_shadowImage hi .none).trans (shadowByte_none s.par i)

end Sys2Proof.Machine
end

section
/-! SUPPORT. The shift register of the CRC-16-CCITT validator as a remainder over GF(2): a pass of ACC is a multiplication by
x modulo 0x11021 (45_crc16.md R302 to R305). -/

namespace Sys2Proof.Machine

/-! One place up. -/

/-- A 16-bit remainder moved one place up; the bit that leaves at the top takes 0x11021 with it (R304). -/
def timesX (r : Half) : Half := r <<< 1 ^^^ if r.msb then 0x1021#16 else 0#16

theorem timesX_zero : timesX 0#16 = 0#16 := by decide

theorem timesX_of_msb_false {r : Half} (h : r.msb = false) : timesX r = r <<< 1 := by
  simp [timesX, h]

theorem timesX_xor (a b : Half) : timesX (a ^^^ b) = timesX a ^^^ timesX b := by
  have hcarry : (if (a ^^^ b).msb then 0x1021#16 else 0#16) =
      (if a.msb then 0x1021#16 else 0#16) ^^^ (if b.msb then 0x1021#16 else 0#16) := by
    rw [BitVec.msb_xor]
    cases a.msb <;> cases b.msb <;> rfl
  rw [timesX, timesX, timesX, hcarry, BitVec.shiftLeft_xor_distrib]
  ac_rfl

theorem iterate_timesX_zero (n : Nat) : timesX^[n] 0#16 = 0#16 := Function.iterate_fixed timesX_zero n

theorem iterate_timesX_xor (n : Nat) (a b : Half) : timesX^[n] (a ^^^ b) = timesX^[n] a ^^^ timesX^[n] b := by
  induction n generalizing a b with
  | zero => rfl
  | succ n ih => simp only [Function.iterate_succ_apply, timesX_xor, ih]

theorem setWidth_shiftLeft_one_eq_carry (r : Half) :
    r.setWidth 32 <<< 1 = (if r.msb then 0x10000#32 else 0#32) ^^^ (r <<< 1).setWidth 32 := by
  have hcarry : (if r.msb then 0x10000#32 else 0#32) = (BitVec.ofBool r.msb).setWidth 32 <<< 16 := by
    cases r.msb <;> rfl
  rw [hcarry]
  ext i hi
  rcases Nat.lt_trichotomy i 16 with h | rfl | h
  · simp [h, BitVec.getLsbD_eq_getElem (show i - 1 < 16 by omega)]
  · simp [BitVec.msb_eq_getLsbD_last]
  · simp [Nat.not_lt.mpr h.le, BitVec.getLsbD_of_ge r (i - 1) (by omega), show i - 16 ≠ 0 by omega, show i ≠ 0 by omega]

/-- The bit above a remainder that moves up is what 0x11021 takes away. -/
theorem setWidth_shiftLeft_one (r : Half) :
    r.setWidth 32 <<< 1 = (if r.msb then 0x11021#32 else 0#32) ^^^ (timesX r).setWidth 32 := by
  rw [setWidth_shiftLeft_one_eq_carry, timesX, BitVec.setWidth_xor]
  cases r.msb
  · simp
  · rw [if_pos rfl, if_pos rfl, if_pos rfl, BitVec.xor_comm (BitVec.setWidth 32 (r <<< 1)), ← BitVec.xor_assoc]
    rfl

theorem setWidth_shiftLeft_succ (r : Half) (n : Nat) :
    r.setWidth 32 <<< (n + 1) = (if r.msb then 0x11021#32 <<< n else 0#32) ^^^ (timesX r).setWidth 32 <<< n := by
  rw [Nat.add_comm, BitVec.shiftLeft_add, setWidth_shiftLeft_one, BitVec.shiftLeft_xor_distrib]
  cases r.msb <;> simp

/-! ACC (R304). -/

/-- A pass of ACC over a remainder that stands `n + 1` places up, above 16 low bits. -/
theorem accPass_eq {n : Nat} (hn : n < 16) (r w : Half) :
    (if (r.setWidth 32 <<< (n + 1) ^^^ w.setWidth 32) &&& BitVec.twoPow 32 (16 + n) ≠ 0#32
      then (r.setWidth 32 <<< (n + 1) ^^^ w.setWidth 32) ^^^ 0x11021#32 <<< n
      else r.setWidth 32 <<< (n + 1) ^^^ w.setWidth 32) = (timesX r).setWidth 32 <<< n ^^^ w.setWidth 32 := by
  have hlead : (r.setWidth 32 <<< (n + 1) ^^^ w.setWidth 32).getLsbD (16 + n) = r.msb := by
    simp [BitVec.msb_eq_getLsbD_last, show 16 + n < 32 by omega, show 16 + n - (n + 1) = 15 by omega]
  have hpow : BitVec.twoPow 32 (16 + n) ≠ 0#32 := by
    rw [Ne, ← BitVec.toNat_inj, BitVec.toNat_twoPow_of_lt (by omega)]
    exact (Nat.two_pow_pos _).ne'
  rw [BitVec.and_twoPow, hlead, setWidth_shiftLeft_succ]
  cases r.msb
  · simp
  · simp [hpow]
    grind

theorem accPasses_shiftLeft {n : Nat} (hn : n < 16) (r w : Half) :
    accPasses (n + 1) (0x11021#32 <<< n) (BitVec.twoPow 32 (16 + n)) (r.setWidth 32 <<< (n + 1) ^^^ w.setWidth 32) =
      (timesX^[n + 1] r ^^^ w).setWidth 32 := by
  induction n generalizing r with
  | zero =>
    rw [accPasses, accPass_eq hn, accPasses, BitVec.shiftLeft_zero, BitVec.setWidth_xor]
    rfl
  | succ n ih =>
    have hshift : ∀ m < 15, 0x11021#32 <<< (m + 1) >>> 1 = 0x11021#32 <<< m ∧
      BitVec.twoPow 32 (16 + (m + 1)) >>> 1 = BitVec.twoPow 32 (16 + m) := by decide
    obtain ⟨hpoly, hlead⟩ := hshift n (by omega)
    rw [accPasses, accPass_eq hn, hpoly, hlead, ih (by omega), ← Function.iterate_succ_apply]

theorem setWidth_and_low16 (r : Half) : r.setWidth 32 &&& 0x0000FFFF#32 = r.setWidth 32 := by
  change r.setWidth 32 &&& (BitVec.allOnes 16).setWidth 32 = r.setWidth 32
  rw [← BitVec.setWidth_and, BitVec.and_allOnes]

theorem acc8_shiftLeft (r w : Half) : acc8 (r.setWidth 32 <<< 8 ^^^ w.setWidth 32) = (timesX^[8] r ^^^ w).setWidth 32 :=
  (congrArg (· &&& 0x0000FFFF#32) (accPasses_shiftLeft (by decide : 7 < 16) r w)).trans (setWidth_and_low16 _)

theorem acc16_shiftLeft (r w : Half) : acc16 (r.setWidth 32 <<< 16 ^^^ w.setWidth 32) = (timesX^[16] r ^^^ w).setWidth 32 :=
  (congrArg (· &&& 0x0000FFFF#32) (accPasses_shiftLeft (by decide : 15 < 16) r w)).trans (setWidth_and_low16 _)

/-- An input below the register's shifted bits is added to them. -/
theorem shiftLeft_or_setWidth {n : Nat} (x : Word) (v : BitVec n) :
    x <<< n ||| v.setWidth 32 = x <<< n ^^^ v.setWidth 32 := by
  ext i hi
  rcases Nat.lt_or_ge i n with h | h
  · simp [h]
  · simp [Nat.not_lt.mpr h, BitVec.getLsbD_of_ge v i h]

/-! The three register operations (R302, R303, R305). -/

theorem fold8_setWidth (r : Half) (b : Byte) : fold8 (r.setWidth 32) b = (timesX^[8] r ^^^ b.setWidth 16).setWidth 32 := by
  rw [fold8, shiftLeft_or_setWidth, ← acc8_shiftLeft, BitVec.setWidth_setWidth (by decide)]

theorem fold16_setWidth (r h : Half) : fold16 (r.setWidth 32) h = (timesX^[16] r ^^^ h).setWidth 32 := by
  rw [fold16, shiftLeft_or_setWidth, acc16_shiftLeft]

/-- CRC_FINALIZE folds zeros. -/
theorem finalizeCrc_eq_fold16 (sr : Word) : finalizeCrc sr = fold16 sr 0#16 := by
  rw [finalizeCrc, fold16, BitVec.setWidth_zero, BitVec.or_zero]

theorem finalizeCrc_setWidth (r : Half) : finalizeCrc (r.setWidth 32) = (timesX^[16] r).setWidth 32 := by
  rw [finalizeCrc_eq_fold16, fold16_setWidth, BitVec.xor_zero]

theorem exists_setWidth {sr : Word} (h : sr.toNat < 2 ^ 16) : ∃ r : Half, sr = r.setWidth 32 :=
  ⟨sr.setWidth 16, by bv_omega⟩

/-! The quotient that goes with the remainder (R304). -/

theorem clmul_congr {n q q' : Nat} (h : ∀ i < n, q.testBit i = q'.testBit i) (g : Word) : clmul n q g = clmul n q' g := by
  induction n with
  | zero => rfl
  | succ n ih => rw [clmul, clmul, h n n.lt_succ_self, ih fun i hi => h i (by omega)]

theorem shiftLeft_eq_clmul_xor (n : Nat) (r : Half) :
    ∃ q < 2 ^ n, r.setWidth 32 <<< n = clmul n q 0x11021#32 ^^^ (timesX^[n] r).setWidth 32 := by
  induction n generalizing r with
  | zero => exact ⟨0, by decide, by simp [clmul]⟩
  | succ n ih =>
    obtain ⟨q, hq, heq⟩ := ih (timesX r)
    have hbits := Nat.testBit_two_pow_mul_add r.msb.toNat hq
    refine ⟨2 ^ n * r.msb.toNat + q, ?_, ?_⟩
    · have hmsb : 2 ^ n * r.msb.toNat ≤ 2 ^ n * 1 := Nat.mul_le_mul_left _ r.msb.toNat_le
      rw [Nat.pow_succ]
      omega
    · have hlow : clmul n (2 ^ n * r.msb.toNat + q) 0x11021#32 = clmul n q 0x11021#32 :=
        clmul_congr (fun i hi => by rw [hbits, if_pos hi]) _
      rw [setWidth_shiftLeft_succ, heq, clmul, hlow, hbits, if_neg n.lt_irrefl, Nat.sub_self, Function.iterate_succ_apply,
        ← BitVec.xor_assoc]
      cases r.msb <;> simp

/-- An input put below a remainder that moves up goes into the new remainder. -/
theorem exists_quotient (n : Nat) (r w : Half) :
    ∃ q, r.setWidth 32 <<< n ^^^ w.setWidth 32 = clmul n q 0x11021#32 ^^^ (timesX^[n] r ^^^ w).setWidth 32 := by
  obtain ⟨q, -, hq⟩ := shiftLeft_eq_clmul_xor n r
  exact ⟨q, by rw [hq, BitVec.setWidth_xor, BitVec.xor_assoc]⟩

theorem exists_fold8_quotient {sr : Word} (hsr : sr.toNat < 2 ^ 16) (b : Byte) :
    ∃ q, sr <<< 8 ||| b.setWidth 32 = clmul 8 q 0x11021#32 ^^^ fold8 sr b := by
  obtain ⟨r, rfl⟩ := exists_setWidth hsr
  obtain ⟨q, hq⟩ := exists_quotient 8 r (b.setWidth 16)
  exact ⟨q, by rw [shiftLeft_or_setWidth, fold8_setWidth, ← hq, BitVec.setWidth_setWidth (by decide)]⟩

theorem exists_fold16_quotient {sr : Word} (hsr : sr.toNat < 2 ^ 16) (h : Half) :
    ∃ q, sr <<< 16 ||| h.setWidth 32 = clmul 16 q 0x11021#32 ^^^ fold16 sr h := by
  obtain ⟨r, rfl⟩ := exists_setWidth hsr
  obtain ⟨q, hq⟩ := exists_quotient 16 r h
  exact ⟨q, by rw [shiftLeft_or_setWidth, fold16_setWidth, hq]⟩

theorem exists_finalizeCrc_quotient {sr : Word} (hsr : sr.toNat < 2 ^ 16) :
    ∃ q, sr <<< 16 = clmul 16 q 0x11021#32 ^^^ finalizeCrc sr := by
  obtain ⟨q, hq⟩ := exists_fold16_quotient hsr 0#16
  rw [BitVec.setWidth_zero, BitVec.or_zero, ← finalizeCrc_eq_fold16] at hq
  exact ⟨q, hq⟩

/-! Two bytes in one fold (20_memory.md R64). -/

/-- A byte moves up within 16 bits without a subtraction. -/
theorem iterate_timesX_byte (b : Byte) {n : Nat} (hn : n ≤ 8) : timesX^[n] (b.setWidth 16) = b.setWidth 16 <<< n := by
  induction n with
  | zero => exact (BitVec.shiftLeft_zero _).symm
  | succ n ih =>
    have hmsb : (b.setWidth 16 <<< n).msb = false := by
      simp [BitVec.msb_eq_getLsbD_last, BitVec.getLsbD_of_ge b (15 - n) (by omega)]
    rw [Function.iterate_succ_apply', ih (by omega), timesX_of_msb_false hmsb, BitVec.shiftLeft_add]

theorem high_xor_low (h : Half) :
    (h.extractLsb' 8 8).setWidth 16 <<< 8 ^^^ (h.extractLsb' 0 8).setWidth 16 = h := by
  ext i hi
  rcases Nat.lt_or_ge i 8 with hlow | hhigh
  · simp [hlow, BitVec.getLsbD_eq_getElem hi]
  · simp [Nat.not_lt.mpr hhigh, hhigh, BitVec.getLsbD_eq_getElem hi, show i - 8 < 8 by omega]

theorem fold8_fold8 {sr : Word} (hsr : sr.toNat < 2 ^ 16) (h : Half) :
    fold8 (fold8 sr (h.extractLsb' 8 8)) (h.extractLsb' 0 8) = fold16 sr h := by
  obtain ⟨r, rfl⟩ := exists_setWidth hsr
  rw [fold8_setWidth, fold8_setWidth, fold16_setWidth, iterate_timesX_xor, iterate_timesX_byte _ le_rfl,
    ← Function.iterate_add_apply, BitVec.xor_assoc, high_xor_low]

end Sys2Proof.Machine
end

section
/-! SUPPORT. CRC_FINALIZE as sixteen moves up: a bijection with two fixed points (45_crc16.md R308). -/

namespace Sys2Proof.Machine

/-! Parity: 0x11021 has an even number of bits, so moving up keeps whether a remainder has. -/

/-- Whether an odd number of the low `n` bits are set. -/
def oddBelow (r : Half) : Nat → Bool
  | 0 => false
  | n + 1 => oddBelow r n ^^ r.getLsbD n

theorem oddBelow_xor (a b : Half) (n : Nat) : oddBelow (a ^^^ b) n = (oddBelow a n ^^ oddBelow b n) := by
  induction n with
  | zero => rfl
  | succ n ih =>
    rw [oddBelow, oddBelow, oddBelow, ih, BitVec.getLsbD_xor, Bool.xor_assoc, Bool.xor_assoc,
      Bool.xor_left_comm (oddBelow b n)]

theorem oddBelow_shiftLeft_one (r : Half) {n : Nat} (hn : n < 16) : oddBelow (r <<< 1) (n + 1) = oddBelow r n := by
  induction n with
  | zero => simp [oddBelow]
  | succ n ih =>
    rw [oddBelow, ih (by omega), oddBelow]
    simp [hn, BitVec.getLsbD_eq_getElem (show n < 16 by omega)]

theorem oddBelow_timesX (r : Half) : oddBelow (timesX r) 16 = oddBelow r 16 := by
  have hpoly : oddBelow (if r.msb then 0x1021#16 else 0#16) 16 = r.msb := by
    cases r.msb <;> decide
  rw [timesX, oddBelow_xor, oddBelow_shiftLeft_one r (by decide : 15 < 16), hpoly, BitVec.msb_eq_getLsbD_last]
  rfl

theorem oddBelow_iterate_timesX (n : Nat) (r : Half) : oddBelow (timesX^[n] r) 16 = oddBelow r 16 := by
  induction n generalizing r with
  | zero => rfl
  | succ n ih => rw [Function.iterate_succ_apply, ih, oddBelow_timesX]

/-! Injectivity and fixed points. -/

theorem timesX_eq_zero {r : Half} (h : timesX r = 0#16) : r = 0#16 := by
  rw [timesX, BitVec.xor_eq_zero_iff] at h
  cases hmsb : r.msb with
  | false =>
    have hlow := BitVec.toNat_lt_of_msb_false hmsb
    rw [hmsb, if_neg Bool.false_ne_true, ← BitVec.twoPow_mul_eq_shiftLeft] at h
    bv_omega
  | true =>
    rw [hmsb, if_pos rfl] at h
    bv_omega

theorem timesX_injective : Function.Injective timesX := fun a b h => by
  refine BitVec.xor_eq_zero_iff.mp (timesX_eq_zero ?_)
  rw [timesX_xor, h, BitVec.xor_self]

theorem eq_zero_of_timesX_eq_self {r : Half} (hmsb : r.msb = false) (h : timesX r = r) : r = 0#16 := by
  rw [timesX_of_msb_false hmsb] at h
  bv_omega

theorem eq_of_timesX_eq_self {r : Half} (h : timesX r = r) : r = 0#16 ∨ r = 0xF01F#16 := by
  cases hmsb : r.msb with
  | false => exact .inl (eq_zero_of_timesX_eq_self hmsb h)
  | true =>
    refine .inr (BitVec.xor_eq_zero_iff.mp (eq_zero_of_timesX_eq_self ?_ ?_))
    · rw [BitVec.msb_xor, hmsb]
      rfl
    · rw [timesX_xor, h]
      rfl

/-- Where a move by `2 ^ (k + 1)` places fixes `r`, the move by `2 ^ k` places fixes its own difference from `r`. That
difference has an even number of bits, which 0xF01F has not. -/
theorem eq_of_iterate_timesX_eq_self (k : Nat) {r : Half} (h : timesX^[2 ^ k] r = r) : r = 0#16 ∨ r = 0xF01F#16 := by
  induction k generalizing r with
  | zero => exact eq_of_timesX_eq_self h
  | succ k ih =>
    have hfixed : timesX^[2 ^ k] (timesX^[2 ^ k] r ^^^ r) = timesX^[2 ^ k] r ^^^ r := by
      rw [iterate_timesX_xor, ← Function.iterate_add_apply, ← two_mul, ← pow_succ', h, BitVec.xor_comm]
    have heven : oddBelow (timesX^[2 ^ k] r ^^^ r) 16 = false := by
      rw [oddBelow_xor, oddBelow_iterate_timesX, Bool.xor_self]
    rcases ih hfixed with hzero | hodd
    · exact ih (BitVec.xor_eq_zero_iff.mp hzero)
    · rw [hodd] at heven
      exact absurd heven (by decide)

end Sys2Proof.Machine
end

section
/-! SUPPORT. The CRC operations as runs of the machine, and the configuration check (45_crc16.md R301 to R313). -/

namespace Sys2Proof.Machine

/-! The operations as the instructions do them (R301 to R305, R310). -/

/-- An operation of the validator has left `v` in the register and returned no status. -/
def State.withCrc (v : Word) (s : State) : State := { s with ret := none, crcSr := v }

theorem State.callable.withCrc {s : State} (hs : s.callable) (v : Word) : (s.withCrc v).callable := hs

theorem exec_crcReset {s : State} (hs : s.callable) :
    exec .crcReset s = .next (s.withCrc (s.par.crcInit.setWidth 32)) :=
  State.invoke_of_callable hs rfl fun t => { t with crcSr := t.par.crcInit.setWidth 32 }

theorem exec_crcFold8 {s : State} (hs : s.callable) (b : Byte) :
    exec (.crcFold8 b) s = .next (s.withCrc (fold8 s.crcSr b)) :=
  State.invoke_of_callable hs rfl fun t => { t with crcSr := fold8 t.crcSr b }

theorem exec_crcFold16 {s : State} (hs : s.callable) (h : Half) :
    exec (.crcFold16 h) s = .next (s.withCrc (fold16 s.crcSr h)) :=
  State.invoke_of_callable hs rfl fun t => { t with crcSr := fold16 t.crcSr h }

theorem exec_crcFinalize {s : State} (hs : s.callable) :
    exec .crcFinalize s = .next (s.withCrc (finalizeCrc s.crcSr)) :=
  State.invoke_of_callable hs rfl fun t => { t with crcSr := finalizeCrc t.crcSr }

theorem exec_itemInstr {s : State} (hs : s.callable) (x : CrcItem) :
    exec (itemInstr x) s = .next (s.withCrc (foldItem s.crcSr x)) := by
  cases x with
  | byte b => exact exec_crcFold8 hs b
  | half h => exact exec_crcFold16 hs h

theorem runInstrs_cons {i : Instr} {s t : State} (h : exec i s = .next t) (is : List Instr) :
    runInstrs (i :: is) s = runInstrs is t := by
  rw [runInstrs, h]

/-- The folds of a list of items, one after the other. -/
theorem runInstrs_folds {s : State} (hs : s.callable) (items : List CrcItem) (is : List Instr) (v : Word) :
    runInstrs (items.map itemInstr ++ is) (s.withCrc v) = runInstrs is (s.withCrc (items.foldl foldItem v)) := by
  induction items generalizing v with
  | nil => rfl
  | cons x items ih => exact (runInstrs_cons (exec_itemInstr (hs.withCrc v) x) _).trans (ih _)

theorem runInstrs_crcOfItems {s : State} (hs : s.callable) (items : List CrcItem) :
    runInstrs (.crcReset :: items.map itemInstr ++ [.crcFinalize]) s =
      some (s.withCrc (crcOfItems s.par.crcInit items)) := by
  rw [List.cons_append, runInstrs_cons (exec_crcReset hs), runInstrs_folds hs,
    runInstrs_cons (exec_crcFinalize (hs.withCrc _))]
  rfl

theorem State.cfgMatches_checkCfg {s : State} {cfg : Word} :
    (s.invoked.checkCfg cfg).cfgMatches cfg = true ↔
      (crcOfItems s.par.crcInit (s.cfgItems cfg)).setWidth 16 = s.cfgStored cfg :=
  beq_iff_eq

theorem State.checkCfg_finish {s : State} (hidle : s.pos = .idle) (cfg : Word) (st : Status) :
    (s.invoked.checkCfg cfg).finish st none =
      { s with crcSr := crcOfItems s.par.crcInit (s.cfgItems cfg), ret := some ⟨st, none⟩ } :=
  State.finish_of_idle (s := s.invoked.checkCfg cfg) hidle st none

theorem exec_crcCheckCfg {s : State} (hs : s.callable) (cfg : Word) :
    exec (.crcCheckCfg cfg) s = .next (
      if cfg = 0#32 then s.faultedWith .operandReserved
      else { s with
        crcSr := crcOfItems s.par.crcInit (s.cfgItems cfg)
        ret := some ⟨if (crcOfItems s.par.crcInit (s.cfgItems cfg)).setWidth 16 = s.cfgStored cfg then .ok else .failed,
          none⟩ }) := by
  change execCrcCheckCfg cfg s = _
  rw [execCrcCheckCfg, State.invoke_of_callable hs rfl]
  refine congrArg _ (if_congr Iff.rfl rfl ?_)
  change (if (s.invoked.checkCfg cfg).cfgMatches cfg then (s.invoked.checkCfg cfg).finish .ok none
    else (s.invoked.checkCfg cfg).finish .failed none) = _
  rw [State.checkCfg_finish hs.2, State.checkCfg_finish hs.2]
  simp only [State.cfgMatches_checkCfg]
  split <;> rfl

/-! The items of a configuration set (R311, R312). -/

theorem foldWord_eq_itemsOfWord (v : Word) : foldWord v = itemsOfWord v := by
  rw [foldWord, itemsOfWord, ← BitVec.setWidth_ushiftRight_eq_extractLsb,
    ← BitVec.setWidth_eq_extractLsb' (by decide : 8 ≤ 32), ← BitVec.setWidth_eq_extractLsb' (by decide : 16 ≤ 32)]
  rcases Nat.lt_or_ge 0xFF v.toNat with hbyte | hbyte
  · rcases Nat.lt_or_ge 0xFFFF v.toNat with hword | hword
    · rw [if_pos hword, if_pos hbyte, if_neg hbyte.not_ge, if_neg hword.not_ge]
      rfl
    · rw [if_neg hword.not_gt, if_pos hbyte, if_neg hbyte.not_ge, if_pos hword]
      rfl
  · rw [if_neg (by omega), if_neg hbyte.not_gt, if_pos hbyte]
    rfl

theorem State.cfgItems_reference {s : State} (h : s.par.cfgSer = Config.referenceSer) (cfg : Word) :
    s.cfgItems cfg =
      [CfgField.mode, .rdFast, .rdSlow, .wrFast, .wrSlow].flatMap fun f => itemsOfWord (s.cfgField cfg f) := by
  simp [State.cfgItems, h, Config.referenceSer, serItems, serValue, foldWord_eq_itemsOfWord]

/-! The model's packed layout (R311). -/

theorem littleEndianAt_lt (m : Mem) (n : Nat) (a : Word) : littleEndianAt m n a < 256 ^ n := by
  induction n generalizing a with
  | zero => exact Nat.one_pos
  | succ n ih =>
    have hbyte := (Mem.read m a.toNat).isLt
    have hrest := ih (a + 1#32)
    rw [littleEndianAt, Nat.pow_succ]
    omega

/-- At most four bytes do not overflow the word in which they are put together. -/
theorem toNat_layoutValue_littleEndian (m : Mem) (cfg : Word) {n : Nat} (hn : n ≤ 4) (off : Word) :
    (layoutValue m cfg (Config.littleEndian n off)).toNat = littleEndianAt m n (cfg + off) := by
  induction n generalizing off with
  | zero => rfl
  | succ n ih =>
    have hbyte := (Mem.read m (cfg + off).toNat).isLt
    have hrest := littleEndianAt_lt m n (cfg + (off + 1#32))
    have hpow : 256 ^ n ≤ 256 ^ 3 := Nat.pow_le_pow_right (by decide) (by omega)
    have hfits : littleEndianAt m n (cfg + (off + 1#32)) * 2 ^ 8 < 2 ^ 32 := by omega
    simp only [Config.littleEndian, layoutValue, exprOp, BitVec.toNat_or, BitVec.toNat_shiftLeft, ih (by omega)]
    rw [littleEndianAt, BitVec.add_assoc, BitVec.toNat_setWidth_of_le (by decide),
      show (8#32 : Word).toNat = 8 from rfl, Nat.shiftLeft_eq, Nat.mod_eq_of_lt hfits, ← Nat.shiftLeft_eq, Nat.or_comm,
      ← Nat.shiftLeft_add_eq_or_of_lt hbyte, Nat.shiftLeft_eq, Nat.add_comm, Nat.mul_comm]

/-! The all-zero configuration (R313). -/

theorem foldItem_zeros {x : CrcItem} (h : x = .byte 0#8 ∨ x = .half 0#16) : foldItem 0#32 x = 0#32 := by
  rcases h with rfl | rfl
  · exact (fold8_setWidth 0#16 0#8).trans (by rw [iterate_timesX_zero]; rfl)
  · exact (fold16_setWidth 0#16 0#16).trans (by rw [iterate_timesX_zero]; rfl)

theorem finalizeCrc_zero : finalizeCrc 0#32 = 0#32 :=
  (finalizeCrc_setWidth 0#16).trans (by rw [iterate_timesX_zero]; rfl)

theorem foldl_foldItem_zeros {items : List CrcItem} (h : ∀ x ∈ items, x = .byte 0#8 ∨ x = .half 0#16) :
    items.foldl foldItem 0#32 = 0#32 := by
  induction items with
  | nil => rfl
  | cons x items ih =>
    obtain ⟨hx, hitems⟩ := List.forall_mem_cons.mp h
    rw [List.foldl_cons, foldItem_zeros hx, ih hitems]

theorem State.serKeepsZero_reference {s : State} (h : s.par.cfgSer = Config.referenceSer) : s.serKeepsZero := by
  rw [State.serKeepsZero, h]
  decide

/-! The statements. -/

/-- Settles O21. -/
theorem crcResetLoadsInit : Obligations.CrcResetLoadsInit := fun _ hs => exec_crcReset hs

/-- Settles O22. -/
theorem crcFoldsAreRemainders : Obligations.CrcFoldsAreRemainders := by
  intro s b h hs hcrc
  obtain ⟨q8, hq8⟩ := exists_fold8_quotient hcrc b
  obtain ⟨q16, hq16⟩ := exists_fold16_quotient hcrc h
  obtain ⟨q, hq⟩ := exists_finalizeCrc_quotient hcrc
  exact ⟨⟨q8, _, exec_crcFold8 hs b, toNat_and_low16_lt _, hq8⟩,
    ⟨q16, _, exec_crcFold16 hs h, toNat_and_low16_lt _, hq16⟩,
    ⟨q, _, exec_crcFinalize hs, toNat_and_low16_lt _, hq⟩⟩

/-- Settles O23: the high byte moves up past the low one without a subtraction. -/
theorem crcFold16IsTwoFolds : Obligations.CrcFold16IsTwoFolds := by
  intro s h hs hcrc
  refine ⟨_, exec_crcFold8 hs _, ?_⟩
  rw [exec_crcFold8 (hs.withCrc _), exec_crcFold16 hs, ← fold8_fold8 hcrc]
  rfl

/-- Settles O24. -/
theorem finalizeFixedPoints : Obligations.FinalizeFixedPoints := by
  intro s hs
  refine ⟨timesX^[16], fun r => ?_, Finite.injective_iff_bijective.mp (timesX_injective.iterate 16), fun r => ⟨?_, ?_⟩⟩
  · rw [exec_crcFinalize (s := { s with crcSr := r.setWidth 32 }) hs, finalizeCrc_setWidth]
    rfl
  · exact eq_of_iterate_timesX_eq_self 4
  · rintro (rfl | rfl) <;> decide

/-- Settles O25: the run of the folds, the reference serialisation, the packed layout. -/
theorem checkCfgIsItsFolds : Obligations.CheckCfgIsItsFolds := by
  intro s cfg hs
  refine ⟨?folds, fun hser => State.cfgItems_reference hser cfg, fun hlayout => ?layout⟩
  case folds =>
    rw [exec_crcCheckCfg hs]
    split
    · rfl
    · exact ⟨_, runInstrs_crcOfItems hs _, rfl⟩
  case layout =>
    have hword := toNat_layoutValue_littleEndian s.mem cfg (n := 4) le_rfl
    have hhalf := toNat_layoutValue_littleEndian s.mem cfg (n := 2) (by decide)
    have hstored : littleEndianAt s.mem 2 (cfg + 20#32) < 2 ^ 16 := littleEndianAt_lt s.mem 2 _
    simp only [State.cfgField, State.cfgStored, hlayout, Config.packedLayout, hword, BitVec.toNat_setWidth, hhalf,
      Nat.mod_eq_of_lt hstored, BitVec.add_zero, and_self]

/-- Settles O26: zeros fold to zero, and finalizing keeps it. -/
theorem zeroConfigurationGivesZero : Obligations.ZeroConfigurationGivesZero := by
  intro s cfg hs hcfg hinit hfields hser
  have hzeros : s.serKeepsZero := hser.elim id State.serKeepsZero_reference
  refine ⟨_, exec_crcCheckCfg hs cfg, ?_⟩
  rw [if_neg hcfg]
  have hitems : s.cfgItems cfg = s.par.cfgSer.flatMap (serItems fun _ => 0#32) := by
    rw [State.cfgItems, funext hfields]
  change crcOfItems s.par.crcInit (s.cfgItems cfg) = 0#32
  rw [crcOfItems, hinit, hitems]
  exact (congrArg finalizeCrc (foldl_foldItem_zeros hzeros)).trans finalizeCrc_zero

/-- Settles O27: the run of the nine folds, evaluated. -/
theorem crcKnownAnswer : Obligations.CrcKnownAnswer := by
  intro s hs hinit
  refine ⟨_, runInstrs_crcOfItems hs
    ([0x31#8, 0x32#8, 0x33#8, 0x34#8, 0x35#8, 0x36#8, 0x37#8, 0x38#8, 0x39#8].map .byte), ?_⟩
  change crcOfItems s.par.crcInit _ = _
  rw [hinit]
  simp [crcOfItems, foldItem, fold8, acc8, finalizeCrc, acc16, accPasses]

end Sys2Proof.Machine
end

section
/-! SUPPORT. Faults and nesting: what an operation answers once a fault is recorded or while another operation waits, and the
callback that breaks its duty (60_exceptions.md R408, R413; 40_dispatch_polling.md R151). -/

namespace Sys2Proof.Machine

/-- Every instruction is an operation invoked or a raw command word or page, whatever the state. -/
theorem exec_enters (i : Instr) :
    (∃ op body, ∀ s, exec i s = s.invoke op body) ∨ ∃ body, ∀ s, exec i s = s.issueRaw body := by
  cases i with
  | setEee | setQuick | query | complete | page1 | page4 => exact .inr ⟨_, fun _ => rfl⟩
  | _ => exact .inl ⟨_, _, fun s => by
      simp only [exec, execInit, execWriteS, execWriteA, execEraseS, execEraseA, execRead, execCompare,
        execCrcReset, execCrcFold8, execCrcFold16, execCrcFinalize, execCrcCheckCfg]
      rfl⟩

/-! After a fault (60_exceptions.md R408). -/

theorem exec_of_fault {s : State} {r : Fault} (h : s.fault = some r) (i : Instr) : exec i s = .fault r := by
  obtain ⟨op, body, hexec⟩ | ⟨body, hexec⟩ := exec_enters i
  · rw [hexec, State.invoke_of_fault h]
  · rw [hexec, State.issueRaw_of_fault h]

theorem State.faultedStep_of_not_reset {s : State} (h : ∀ d rest, s.inputs ≠ .reset d :: rest) (r : Fault) :
    s.faultedStep r = .fault r := by
  unfold State.faultedStep
  split
  · next hin => exact absurd hin (h _ _)
  · rfl

theorem step_of_fault {s : State} {r : Fault} (h : s.fault = some r) : step s = s.faultedStep r :=
  step_of_other (by rw [State.nextAction, h])

/-- Settles O7. -/
theorem faultIsFinal : Obligations.FaultIsFinal := by
  intro s r hfault
  refine ⟨exec_of_fault hfault, fun hreset => ?_⟩
  rw [step_of_fault hfault, State.faultedStep_of_not_reset hreset]

/-! While an operation waits (60_exceptions.md R413). -/

theorem State.invoke_of_waiting {s : State} (hf : s.fault = none) (hp : s.pos ≠ .idle) (op : Byte)
    (body : State → State) : s.invoke op body = .next (s.raise .reentry) := by
  simp [State.invoke, hf, hp]

theorem State.issueRaw_of_waiting {s : State} (hf : s.fault = none) (hp : s.pos ≠ .idle) (body : State → State) :
    s.issueRaw body = .next (s.raise .reentry) := by
  simp [State.issueRaw, hf, hp]

theorem exec_of_waiting {s : State} (hf : s.fault = none) (hp : s.pos ≠ .idle) (i : Instr) :
    exec i s = .next (s.raise .reentry) := by
  obtain ⟨op, body, hexec⟩ | ⟨body, hexec⟩ := exec_enters i
  · rw [hexec, State.invoke_of_waiting hf hp]
  · rw [hexec, State.issueRaw_of_waiting hf hp]

/-! The callback (40_dispatch_polling.md R151). -/

theorem step_of_callbackBreaks {s : State} {how : CallbackBreach} {rest : List Input} (hf : s.fault = none)
    (hin : s.inputs = .callbackBreaks how :: rest) : step s = .next (State.callbackBreach how { s with inputs := rest }) :=
  step_of_other (by rw [State.nextAction, hf, hin])

/-- The breach is seen exactly where a poll iteration calls the callback. -/
theorem State.callbackBreach_eq (how : CallbackBreach) (s : State) :
    s.callbackBreach how =
      if s.pos ≠ .idle ∧ s.inflight ≠ .none ∧ s.par.callback = true then
        { s with callbacks := s.callbacks + 1, fault := some .reentry }
      else s := by
  unfold State.callbackBreach
  split
  · next hidle => rw [if_neg fun h => h.1 hidle]
  · next hwaiting =>
    have hcalls : (s.busy && s.par.callback) = true ↔ s.pos ≠ .idle ∧ s.inflight ≠ .none ∧ s.par.callback = true := by
      rw [Bool.and_eq_true, s.busy_iff, hwaiting]
      exact (and_iff_right nofun).symm
    rw [if_congr hcalls rfl rfl]
    split
    · next h => simp [State.callCallback, State.raise, h.2.2]
    · rfl

/-- Settles O9. -/
theorem nestedInvocationFaults : Obligations.NestedInvocationFaults := by
  intro s hf
  refine ⟨fun hwaiting i => exec_of_waiting hf hwaiting i, fun how rest hin => ?_⟩
  have hbreach := State.callbackBreach_eq how { s with inputs := rest }
  rw [step_of_callbackBreaks hf hin]
  split
  · next h => exact congrArg _ (hbreach.trans (if_pos h))
  · next h => exact congrArg _ (hbreach.trans (if_neg h))

end Sys2Proof.Machine
end

section
/-! SUPPORT. What the six operations behind CHECK_JOB return once it accepts: never REJECTED (60_exceptions.md R402). -/

namespace Sys2Proof.Machine

/-- The operation has not returned REJECTED: it has returned another status, or nothing yet. -/
def State.NotRejected (s : State) : Prop := ∀ m, s.ret ≠ some ⟨.rejected, m⟩

theorem State.NotRejected.of_ret {s t : State} (h : s.NotRejected) (hret : t.ret = s.ret) : t.NotRejected :=
  fun m => hret ▸ h m

theorem State.invoked_notRejected (s : State) : s.invoked.NotRejected := nofun

theorem State.finish_notRejected {st : Status} (h : st ≠ .rejected) (n : Option Nat) (s : State) :
    (s.finish st n).NotRejected := by
  intro m hret
  cases hret
  exact h rfl

theorem State.NotRejected.ifSound {s : State} (h : s.NotRejected) {f : State → State} (hf : (f s).NotRejected) :
    (s.ifSound f).NotRejected := by
  rcases State.ifSound_cases s f with ⟨-, e⟩ | ⟨-, e⟩ <;> rwa [e]

theorem State.issuePage_ret (a : Word) (bytes : List Byte) (s : State) : (s.issuePage a bytes).ret = s.ret := by
  rcases State.issuePage_cases a bytes s with ⟨r, -, e⟩ | ⟨-, e⟩ <;> rw [e] <;> rfl

/-! Synchronous transfers (41_write_paths.md R160, R180). -/

theorem State.NotRejected.writeLoop {s : State} (h : s.NotRejected) (op : Byte) (len : Word) :
    (s.writeLoop op len).NotRejected := by
  unfold State.writeLoop
  split
  · exact State.finish_notRejected (by decide) _ _
  · have hpage := h.of_ret (State.issuePage_ret s.dst (s.pageBytes (pageSize s.dst s.rem)) s)
    exact hpage.ifSound hpage

theorem State.NotRejected.startSync {s : State} (h : s.NotRejected) (op : Byte) (dst len : Word) (src : Option Word) :
    (s.startSync op dst len src).NotRejected := by
  unfold State.startSync
  split
  · exact State.NotRejected.writeLoop (s := s.loadTransfer dst len src) h op len
  · exact State.finish_notRejected (by decide) _ _

/-! Asynchronous transfers (41_write_paths.md R170, R172, R181). -/

theorem State.asyncBusy_notRejected (op : Byte) (s : State) : (s.asyncBusy op).NotRejected := by
  unfold State.asyncBusy
  split
  · exact State.finish_notRejected (by decide) _ _
  · split <;> exact State.finish_notRejected (by decide) _ _

theorem State.NotRejected.asyncIssue {s : State} (h : s.NotRejected) (n : Nat) : (s.asyncIssue n).NotRejected :=
  (h.of_ret (State.issuePage_ret s.dst (s.pageBytes n) s)).ifSound (State.finish_notRejected (by decide) _ _)

theorem State.NotRejected.asyncStep {s : State} (h : s.NotRejected) (op : Byte) : (s.asyncStep op).NotRejected := by
  unfold State.asyncStep
  split
  · exact s.asyncBusy_notRejected op
  · split
    · exact State.finish_notRejected (by decide) _ _
    · split
      · exact State.finish_notRejected (by decide) _ _
      · exact State.NotRejected.asyncIssue (s := { s with issued := false }) h _

theorem State.NotRejected.startAsync {s : State} (h : s.NotRejected) (op : Byte) (dst len : Word) (src : Option Word) :
    (s.startAsync op dst len src).NotRejected := by
  unfold State.startAsync
  split
  · exact State.NotRejected.asyncStep (s := s.beginAsync dst len src) h op
  · exact State.finish_notRejected (by decide) _ _

/-! READ and COMPARE (42_read_compare.md R200, R210). -/

theorem State.NotRejected.whenReadable {s : State} (h : s.NotRejected) {body : State → State}
    (hb : (body s).NotRejected) : (s.whenReadable body).NotRejected := by
  unfold State.whenReadable
  split
  · exact State.finish_notRejected (by decide) _ _
  · split
    · exact h
    · split
      · exact h
      · exact hb

theorem State.copyOut_notRejected (src dst len : Word) (s : State) : (s.copyOut src dst len).NotRejected :=
  State.finish_notRejected (by decide) _ _

theorem State.compareOut_notRejected (src buf len : Word) (s : State) : (s.compareOut src buf len).NotRejected := by
  unfold State.compareOut
  split <;> exact State.finish_notRejected (by decide) _ _

end Sys2Proof.Machine
end

section
/-! SUPPORT. The order of CHECK_JOB, for the six operations at once (60_exceptions.md R402). -/

namespace Sys2Proof.Machine

/-- The overlap of R402 as an address in common. -/
theorem State.bufferOverlaps_iff (s : State) (q len : Word) :
    bufferOverlaps s.par q.toNat len.toNat = true ↔ s.bufferMeets q len := by
  simp only [bufferOverlaps, Bool.or_eq_true, meets_iff, or_assoc, ← exists_or, ← and_or_left]
  rfl

/-! The two buffer checks, as CHECK_JOB makes them of an operation that may have no buffer. -/

theorem anyWraps_iff (ptr : Option Word) (len : Word) :
    ptr.any (fun q => decide (2 ^ 32 < q.toNat + len.toNat)) = true ↔
      ∃ q, ptr = some q ∧ 2 ^ 32 < q.toNat + len.toNat := by
  simp only [Option.any_eq_true, decide_eq_true_eq]

theorem State.anyOverlaps_iff (s : State) (ptr : Option Word) (len : Word) :
    ptr.any (fun q => bufferOverlaps s.par q.toNat len.toNat) = true ↔ ∃ q, ptr = some q ∧ s.bufferMeets q len := by
  simp only [Option.any_eq_true, State.bufferOverlaps_iff]

/-- An operation behind CHECK_JOB, invoked by its own OP. Its body, reached only when the check accepts, does not return
REJECTED. -/
theorem JobOf.exec_eq {i : Instr} {a len : Word} {ptr : Option Word} {n : Option Nat} {op : Byte} {s : State}
    (hjob : JobOf i a len ptr n) (hop : opcodeOf i = some op) (hs : s.callable) (hp : opPresent s.par op = true) :
    ∃ body, (body s.invoked).NotRejected ∧
      exec i s = .next (s.invoked.whenJob op n (s.checkJob a len ptr) body) := by
  have hret := s.invoked_notRejected
  cases hjob with
  | writeS | eraseS => cases hop; exact ⟨_, hret.startSync _ _ _ _, State.invoke_of_callable hs hp _⟩
  | writeA | eraseA => cases hop; exact ⟨_, hret.startAsync _ _ _ _, State.invoke_of_callable hs hp _⟩
  | read =>
    cases hop
    exact ⟨_, hret.whenReadable (State.copyOut_notRejected _ _ _ _), State.invoke_of_callable hs hp _⟩
  | compare =>
    cases hop
    exact ⟨_, hret.whenReadable (State.compareOut_notRejected _ _ _ _), State.invoke_of_callable hs hp _⟩

/-- Settles O18: CHECK_JOB's branches in their order; behind them the operation's body. -/
theorem inputCheckOrder : Obligations.InputCheckOrder := by
  intro s i op a len ptr n hjob hop hs hp
  obtain ⟨body, hbody, hexec⟩ := hjob.exec_eq hop hs hp
  have hrefuse (c : DetCode) : s.invoked.whenJob op n (.reject c) body = s.refusedWith op c n :=
    State.reject_invoked hs.2 op c n
  rw [State.checkJob] at hexec
  split
  · next huninit => rw [hexec, if_pos huninit, hrefuse]
  next hinit =>
  rw [if_neg hinit] at hexec
  split
  · next hbeyond => rw [hexec, if_pos hbeyond, hrefuse]
  next haddr =>
  rw [if_neg haddr] at hexec
  split
  · next hshape => rw [hexec, if_pos hshape, hrefuse]
  next hlen =>
  rw [if_neg hlen] at hexec
  split
  · next hnull => rw [hexec, if_pos hnull, hrefuse]
  next hptr =>
  rw [if_neg hptr] at hexec
  have hnowrap (hfits : ∀ q, ptr = some q → q.toNat + len.toNat ≤ 2 ^ 32) :=
    mt (anyWraps_iff ptr len).mp fun ⟨q, hq, hwrap⟩ => absurd hwrap (not_lt.mpr (hfits q hq))
  refine ⟨fun q hq hwrap => ?wrap, fun q hq hfits hmeets => ?overlap, fun hfree => ?free⟩
  case wrap =>
    rw [hexec, if_pos ((anyWraps_iff ptr len).mpr ⟨q, hq, hwrap⟩)]
    rfl
  case overlap =>
    rw [hexec, if_neg (hnowrap fun p hp => Option.some.inj (hq.symm.trans hp) ▸ hfits),
      if_pos ((s.anyOverlaps_iff ptr len).mpr ⟨q, hq, hmeets⟩)]
    rfl
  case free =>
    rw [if_neg (hnowrap fun q hq => (hfree q hq).1),
      if_neg (mt (s.anyOverlaps_iff ptr len).mp fun ⟨q, hq, hmeets⟩ => (hfree q hq).2 hmeets)] at hexec
    refine ⟨fun hbusy => ?_, fun hnew => ?_⟩
    · rw [hexec, if_pos hbusy, hrefuse]
    · rw [if_neg hnew] at hexec
      exact ⟨_, hexec, hbody⟩

end Sys2Proof.Machine
end

section
/-! SUPPORT. INIT's checks before any register access (43_init_brownout.md R230, R238; 60_exceptions.md R407). -/

namespace Sys2Proof.Machine

/-- A wrong checksum ends INIT with its event, `seq.init` UNINIT (60_exceptions.md R407). -/
theorem State.initCheckStep_mismatch {s : State} {cfg : Word} (hidle : s.pos = .idle)
    (hcrc : (crcOfItems s.par.crcInit (s.cfgItems cfg)).setWidth 16 ≠ s.cfgStored cfg) :
    (s.invoked.checkCfg cfg).initCheckStep cfg =
      { s with
        crcSr := crcOfItems s.par.crcInit (s.cfgItems cfg)
        initDone := false
        det := s.detWith 0x01#8 .cfgCrc
        ret := some ⟨.failed, none⟩ } := by
  rw [State.initCheckStep, if_neg (mt State.cfgMatches_checkCfg.mp hcrc), State.finish_of_idle (by exact hidle)]
  rfl

/-- Settles O28: the checks of I0 in their order, and behind them the checksum. -/
theorem initRefusals : Obligations.InitRefusals := by
  intro s cfg hs
  have hexec : exec (.init cfg) s = .next (
      if cfg = 0#32 then s.invoked.reject 0x01#8 .paramConfig none
      else if s.par.timeout = some 0#32 then s.invoked.raise .configTimeoutZero
      else if s.quick = true ∨ s.result = .pending then s.invoked.raise .initWhileActive
      else (s.invoked.checkCfg cfg).initCheckStep cfg) := by
    rw [exec, execInit, State.invoke_of_callable hs rfl]
    rfl
  split
  · next hnull => rw [hexec, if_pos hnull, State.reject_invoked hs.2]
  next hcfg =>
  rw [if_neg hcfg] at hexec
  split
  · next hzero =>
    rw [hexec, if_pos hzero]
    rfl
  next hbudget =>
  rw [if_neg hbudget] at hexec
  split
  · next hactive =>
    rw [hexec, if_pos hactive]
    rfl
  next hrest =>
  intro hcrc
  rw [hexec, if_neg hrest, State.initCheckStep_mismatch hs.2 hcrc]

end Sys2Proof.Machine
end

section
/-! SUPPORT. COMPARE of an accepted request while READY = 1 (42_read_compare.md R210). -/

namespace Sys2Proof.Machine

/-! The scan of two runs of bytes. -/

theorem firstDifference_self (xs : List Byte) (i : Nat) : firstDifference xs xs i = none := by
  induction xs generalizing i with
  | nil => rfl
  | cons x xs ih => rw [firstDifference, if_pos rfl, ih]

/-- Behind a common prefix the scan stops at the first place where the runs differ. -/
theorem firstDifference_append {x y : Byte} (h : x ≠ y) (common xs ys : List Byte) (i : Nat) :
    firstDifference (common ++ x :: xs) (common ++ y :: ys) i = some (i + common.length) := by
  induction common generalizing i with
  | nil => exact if_neg h
  | cons z common ih =>
    rw [List.cons_append, List.cons_append, firstDifference, if_pos rfl, ih, List.length_cons, Nat.add_assoc,
      Nat.add_comm 1]

theorem Mem.readBytes_congr {m m' : Mem} {a b n : Nat} (h : ∀ i < n, Mem.read m (a + i) = Mem.read m' (b + i)) :
    Mem.readBytes m a n = Mem.readBytes m' b n :=
  List.map_congr_left fun i hi => h i (List.mem_range.mp hi)

/-- The bytes before one place, the byte there and the bytes behind it. -/
theorem Mem.readBytes_split (m : Mem) (a : Nat) {j n : Nat} (h : j < n) :
    Mem.readBytes m a n = Mem.readBytes m a j ++ Mem.read m (a + j) :: Mem.readBytes m (a + j + 1) (n - (j + 1)) := by
  obtain ⟨k, rfl⟩ := Nat.exists_eq_add_of_lt h
  rw [show j + k + 1 - (j + 1) = k by omega, Nat.add_assoc j k 1, Mem.readBytes, List.range_add, List.map_append,
    List.range_succ_eq_map]
  simp [Mem.readBytes, Function.comp_def, Nat.add_assoc, Nat.add_comm 1]

/-! The instruction. -/

theorem State.compareOut_equal {s : State} {src buf len : Word}
    (h : ∀ i < len.toNat, Mem.read s.stage (src.toNat + i) = Mem.read s.mem (buf.toNat + i)) :
    s.compareOut src buf len = s.finish .ok (some len.toNat) := by
  rw [State.compareOut, Mem.readBytes_congr h, firstDifference_self]

theorem State.compareOut_differs {s : State} {src buf len : Word} {j : Nat} (hj : j < len.toNat)
    (hdiff : Mem.read s.stage (src.toNat + j) ≠ Mem.read s.mem (buf.toNat + j))
    (hbefore : ∀ i < j, Mem.read s.stage (src.toNat + i) = Mem.read s.mem (buf.toNat + i)) :
    s.compareOut src buf len = s.finish .inconsistent (some j) := by
  rw [State.compareOut, Mem.readBytes_split s.stage src.toNat hj, Mem.readBytes_split s.mem buf.toNat hj,
    Mem.readBytes_congr hbefore, firstDifference_append hdiff, Mem.length_readBytes, Nat.zero_add]

theorem exec_compare_of_accepted {s : State} {src buf len : Word} (hs : s.callable) (hjob : s.accepts src len)
    (hbuffer : s.bufferOk buf len) (honline : s.mode ≠ .offline) :
    exec (.compare src buf len) s = .next (
      if s.inflight ≠ .none then s.faultedWith .readWhileBusy
      else if s.quick = true then s.faultedWith .readInQuick
      else s.invoked.compareOut src buf len) :=
  calc exec (.compare src buf len) s
      = .next (s.invoked.whenReadable (State.compareOut src buf len)) :=
        State.invoke_accepted (op := 0x08#8) hs rfl hjob (State.bufferOk_of_some hbuffer) none _
    _ = _ := congrArg _ (State.whenReadable_online (s := s.invoked) honline _)

/-- Settles O51: the checks decide, and the loop stops at the first place where the bytes differ. -/
theorem compareFindsTheFirstDifference : Obligations.CompareFindsTheFirstDifference := by
  intro s src buf len hs hjob hbuffer honline
  rw [exec_compare_of_accepted hs hjob hbuffer honline]
  refine ⟨fun hbusy => by rw [if_pos hbusy], fun hidle hquick => ?quick,
    fun hidle hquick => ⟨fun hsame => ?same, ?differs⟩⟩
  case quick => rw [if_neg (not_not_intro hidle), if_pos hquick]
  all_goals rw [if_neg (not_not_intro hidle), if_neg (by simp [hquick])]
  case same => rw [State.compareOut_equal (s := s.invoked) hsame, State.finish_invoked hs.2]
  case differs =>
    intro j hj hdiff hbefore
    rw [State.compareOut_differs (s := s.invoked) hj hdiff hbefore, State.finish_invoked hs.2]

end Sys2Proof.Machine
end

section
/-! SUPPORT. A reset, at any step, and the state the machine starts in (70_reset_and_hazards.md R450, R451). -/

namespace Sys2Proof.Machine

/-- A drawn memory cut to some addresses reads as drawn at each of them. -/
theorem Mem.read_ofCells_filter {p : Nat → Bool} {a : Nat} (ha : p a = true) (cs : List Host.Cell) {m m' : Mem}
    (hm : Mem.wf m) (hm' : Mem.wf m') (h : Mem.read m a = Mem.read m' a) :
    Mem.read (Mem.ofCells (cs.filter fun c => p c.1) m) a = Mem.read (Mem.ofCells cs m') a := by
  induction cs generalizing m m' with
  | nil => exact h
  | cons c cs ih =>
    cases hc : p c.1 with
    | true =>
      rw [List.filter_cons_of_pos (by exact hc)]
      refine ih (Mem.wf_write hm c.1 c.2) (Mem.wf_write hm' c.1 c.2) ?_
      rw [Mem.read_write hm, Mem.read_write hm', h]
    | false =>
      have hne : a ≠ c.1 := fun e => by simp [← e, ha] at hc
      rw [List.filter_cons_of_neg (by simp [hc])]
      exact ih hm (Mem.wf_write hm' c.1 c.2) (h.trans (Mem.read_write_other m' c.2 hne).symm)

/-- The addresses a reset interrupts (10_state.md R39). -/
theorem State.mem_interruptedAddrs {s : State} {a : Nat} :
    a ∈ s.interruptedAddrs ↔ a ∈ s.qdirty ∨ ∃ x n, s.inflight = .page x n ∧ inRange a x.toNat n := by
  unfold State.interruptedAddrs
  cases s.inflight with
  | none | cmd => simp
  | page x n =>
    rw [List.mem_append, mem_addrsFrom, or_comm]
    refine or_congr_right ⟨fun h => ⟨x, n, rfl, h⟩, ?_⟩
    rintro ⟨_, _, ⟨⟩, h⟩
    exact h

/-- `fc.nv` persists but for the interrupted bytes, which take their draws (10_state.md R39). -/
theorem State.read_nvAfterReset {s : State} (h : Mem.wf s.nv) (d : ResetDraw) (a : Nat) :
    Mem.read (s.nvAfterReset d) a =
      if a ∈ s.interruptedAddrs then Mem.read (Mem.ofCells d.interrupted []) a else Mem.read s.nv a :=
  Mem.read_copyAt _ _ h a

theorem State.faultedStep_of_reset {s : State} {d : ResetDraw} {rest : List Input} (hin : s.inputs = .reset d :: rest)
    (r : Fault) : s.faultedStep r = .next ({ s with inputs := rest }.afterReset d) := by
  rw [State.faultedStep, hin]

/-- No recorded fault stands in the way of a reset (10_state.md R45, 60_exceptions.md R408). -/
theorem step_of_reset {s : State} {d : ResetDraw} {rest : List Input} (hin : s.inputs = .reset d :: rest) :
    step s = .next ({ s with inputs := rest }.afterReset d) := by
  obtain hsound | ⟨r, hfault⟩ := Option.eq_none_or_eq_some s.fault
  · exact step_of_other (by rw [State.nextAction, hsound, hin])
  · exact (step_of_fault hfault).trans (State.faultedStep_of_reset hin r)

/-- Settles O10: the memories the reset leaves are read address by address. -/
theorem resetEvent : Obligations.ResetEvent := by
  intro s d rest hnv hin
  have hread := State.read_nvAfterReset hnv d
  refine ⟨_, step_of_reset hin, rfl, fun a hclean hpage => ?kept, fun a hlost => ?interrupted, fun hready => ?online,
    fun hready a ha => ?offline, fun a ha => ?shadow⟩
  case kept =>
    refine (hread a).trans (if_neg fun hmem => ?_)
    obtain hdirty | ⟨x, n, hflight, hrange⟩ := State.mem_interruptedAddrs.mp hmem
    · exact hclean hdirty
    · exact hpage x n hflight hrange
  case interrupted => exact (hread a).trans (if_pos (State.mem_interruptedAddrs.mpr hlost))
  case online => exact if_pos hready
  case offline =>
    have hstage : (State.afterReset d { s with inputs := rest }).stage =
        Mem.ofCells (d.stage.filter fun c => decide (c.1 < s.par.eeeSize)) [] := if_neg (by simp [hready])
    rw [hstage]
    exact Mem.read_ofCells_filter (p := fun x => decide (x < s.par.eeeSize)) (decide_eq_true ha) d.stage
      Mem.wf_nil Mem.wf_nil rfl
  case shadow =>
    exact Mem.read_ofCells_filter (p := fun x => decide (x < s.par.shadowSize)) (decide_eq_true ha) d.shadow
      Mem.wf_nil Mem.wf_nil rfl

/-- Settles O11: each value is the one the reset state is written with. -/
theorem resetValues : Obligations.ResetValues :=
  ⟨rfl, rfl, rfl, rfl, rfl, rfl, rfl, rfl, rfl, rfl, rfl, rfl⟩

/-- Settles O12: every memory is empty, nothing waits, is in flight or PENDING, and `crc.sr` is zero. -/
theorem resetSatisfiesInvariant : Obligations.ResetSatisfiesInvariant where
  mem := ⟨Mem.wf_nil, Mem.below_nil _⟩
  stage := ⟨Mem.wf_nil, Mem.below_nil _⟩
  nv := ⟨Mem.wf_nil, Mem.below_nil _⟩
  shadow := ⟨Mem.wf_nil, Mem.below_nil _⟩
  dirty := ⟨List.Pairwise.nil, nofun⟩
  committed := fun _ => rfl
  mode := trivial
  flight := trivial
  crc := by decide
  issued := (nofun)
  routine := fun hr => absurd rfl hr
  pending := (nofun)
  paging := (nofun)
  starting := (nofun)

end Sys2Proof.Machine
end
